-- ==== Sys2Proof/Word.lean ====
section
/-! DEFINITION. The widths of 00_scope.md R6 as types: bytes, 16-bit words, 4-bit selectors, 12-bit addresses. -/

namespace Sys2Proof

/-- 8 bits: a general register, a timer, a memory cell (R20, R30, R60). -/
abbrev Byte := BitVec 8

/-- 16 bits: `pc`, `I`, a stack entry, an instruction word (R23, R27, R28, R90). -/
abbrev Word := BitVec 16

/-- 4 bits: a register selector `x` or `y`, a row count `n`, the stack pointer, a key number (R91, R29). -/
abbrev Nibble := BitVec 4

/-- 12 bits: the address field `nnn` (R91). -/
abbrev Addr := BitVec 12

end Sys2Proof
end

