-- ==== Sys2Proof/Syntax.lean ====
section
/-! DEFINITION. The 33 instructions of 30_encoding.md R95, one constructor per row of the opcode table, in the
table's order, each with the fields its format gives it (R91, R92). -/

namespace Sys2Proof

/-- One constructor per row of R95. `x`, `y` select registers, `kk`, `nnn`, `n` are unsigned immediates (R93). -/
inductive Instr where
  /-- `00E0` CLS, R230. -/
  | cls
  /-- `00EE` RET, R142. -/
  | ret
  /-- `1nnn` JP nnn, R140. -/
  | jp (nnn : Addr)
  /-- `2nnn` CALL nnn, R141. -/
  | call (nnn : Addr)
  /-- `3xkk` SE Vx, kk, R143. -/
  | seImm (x : Nibble) (kk : Byte)
  /-- `4xkk` SNE Vx, kk, R144. -/
  | sneImm (x : Nibble) (kk : Byte)
  /-- `5xy0` SE Vx, Vy, R145. -/
  | seReg (x y : Nibble)
  /-- `6xkk` LD Vx, kk, R160. -/
  | ldImm (x : Nibble) (kk : Byte)
  /-- `7xkk` ADD Vx, kk, R161. -/
  | addImm (x : Nibble) (kk : Byte)
  /-- `8xy0` LD Vx, Vy, R162. -/
  | ldReg (x y : Nibble)
  /-- `8xy1` OR Vx, Vy, R163. -/
  | orReg (x y : Nibble)
  /-- `8xy2` AND Vx, Vy, R164. -/
  | andReg (x y : Nibble)
  /-- `8xy3` XOR Vx, Vy, R165. -/
  | xorReg (x y : Nibble)
  /-- `8xy4` ADD Vx, Vy, R166. -/
  | addReg (x y : Nibble)
  /-- `8xy5` SUB Vx, Vy, R167. -/
  | subReg (x y : Nibble)
  /-- `8xy6` SHR Vx, R168; `y` is decoded and ignored (R99). -/
  | shr (x y : Nibble)
  /-- `8xy7` SUBN Vx, Vy, R169. -/
  | subnReg (x y : Nibble)
  /-- `8xyE` SHL Vx, R170; `y` is decoded and ignored (R99). -/
  | shl (x y : Nibble)
  /-- `9xy0` SNE Vx, Vy, R146. -/
  | sneReg (x y : Nibble)
  /-- `Annn` LD I, nnn, R190. -/
  | ldI (nnn : Addr)
  /-- `Cxkk` RND Vx, kk, R210. -/
  | rnd (x : Nibble) (kk : Byte)
  /-- `Dxyn` DRW Vx, Vy, n, R231. -/
  | drw (x y n : Nibble)
  /-- `Ex9E` SKP Vx, R148. -/
  | skp (x : Nibble)
  /-- `ExA1` SKNP Vx, R149. -/
  | sknp (x : Nibble)
  /-- `Fx07` LD Vx, DT, R215. -/
  | ldVxDT (x : Nibble)
  /-- `Fx0A` LD Vx, K, R225. -/
  | ldVxK (x : Nibble)
  /-- `Fx15` LD DT, Vx, R216. -/
  | ldDTVx (x : Nibble)
  /-- `Fx18` LD ST, Vx, R217. -/
  | ldSTVx (x : Nibble)
  /-- `Fx1E` ADD I, Vx, R191. -/
  | addIVx (x : Nibble)
  /-- `Fx29` LD F, Vx, R192. -/
  | ldFVx (x : Nibble)
  /-- `Fx33` LD B, Vx, R193. -/
  | ldBVx (x : Nibble)
  /-- `Fx55` LD [I], Vx, R194. -/
  | ldIndVx (x : Nibble)
  /-- `Fx65` LD Vx, [I], R195. -/
  | ldVxInd (x : Nibble)
  deriving DecidableEq, Repr

/-- The unique key of the instruction's row (R101), as the opcode table spells it. -/
def Instr.mnemonic : Instr → String
  | .cls => "CLS"
  | .ret => "RET"
  | .jp _ => "JP_nnn"
  | .call _ => "CALL_nnn"
  | .seImm _ _ => "SE_Vx_kk"
  | .sneImm _ _ => "SNE_Vx_kk"
  | .seReg _ _ => "SE_Vx_Vy"
  | .ldImm _ _ => "LD_Vx_kk"
  | .addImm _ _ => "ADD_Vx_kk"
  | .ldReg _ _ => "LD_Vx_Vy"
  | .orReg _ _ => "OR_Vx_Vy"
  | .andReg _ _ => "AND_Vx_Vy"
  | .xorReg _ _ => "XOR_Vx_Vy"
  | .addReg _ _ => "ADD_Vx_Vy"
  | .subReg _ _ => "SUB_Vx_Vy"
  | .shr _ _ => "SHR_Vx"
  | .subnReg _ _ => "SUBN_Vx_Vy"
  | .shl _ _ => "SHL_Vx"
  | .sneReg _ _ => "SNE_Vx_Vy"
  | .ldI _ => "LD_I_nnn"
  | .rnd _ _ => "RND_Vx_kk"
  | .drw _ _ _ => "DRW_Vx_Vy_n"
  | .skp _ => "SKP_Vx"
  | .sknp _ => "SKNP_Vx"
  | .ldVxDT _ => "LD_Vx_DT"
  | .ldVxK _ => "LD_Vx_K"
  | .ldDTVx _ => "LD_DT_Vx"
  | .ldSTVx _ => "LD_ST_Vx"
  | .addIVx _ => "ADD_I_Vx"
  | .ldFVx _ => "LD_F_Vx"
  | .ldBVx _ => "LD_B_Vx"
  | .ldIndVx _ => "LD_I_ind_Vx"
  | .ldVxInd _ => "LD_Vx_I_ind"

end Sys2Proof
end

