-- ==== Sys2Proof/Decode.lean ====
section
/-! DEFINITION. The decoder of 30_encoding.md (R90 to R103) and, after it, the encoder; and the opcode map of R95
as a table of masks and matches. The numbers of 28 of the 33 rows are the spec's own (R96, decision D3), log
entry 7. -/

namespace Sys2Proof

/-! ### Fields (R91) -/

/-- `w[15:12]`, the class. -/
def fieldClass (w : Word) : Nibble := w.extractLsb' 12 4

/-- `w[11:8]`, the first register selector. -/
def fieldX (w : Word) : Nibble := w.extractLsb' 8 4

/-- `w[7:4]`, the second register selector. -/
def fieldY (w : Word) : Nibble := w.extractLsb' 4 4

/-- `w[3:0]`, the 4-bit immediate or the trailing nibble. -/
def fieldN (w : Word) : Nibble := w.extractLsb' 0 4

/-- `w[7:0]`, the 8-bit immediate or the low byte. -/
def fieldKK (w : Word) : Byte := w.extractLsb' 0 8

/-- `w[11:0]`, the 12-bit address. -/
def fieldNNN (w : Word) : Addr := w.extractLsb' 0 12

/-! ### Decoding (R94, R97) -/

/-- Why a word is not an instruction: the rows of R97's table, by name; and a byte sequence with no whole word. -/
inductive Reject where
  /-- Class 0 other than 0x00E0 and 0x00EE (R98 a). -/
  | class0
  /-- Class 5, trailing nibble not 0. -/
  | class5
  /-- Class 8, trailing nibble 8 to D or F. -/
  | class8
  /-- Class 9, trailing nibble not 0. -/
  | class9
  /-- Class B (R98 b). -/
  | classB
  /-- Class E, low byte neither 0x9E nor 0xA1. -/
  | classE
  /-- Class F, low byte not one of the nine. -/
  | classF
  /-- Fewer than two bytes: no word to decode (R90). -/
  | truncated
  deriving DecidableEq, Repr

/-- Class 0 compares the whole word (R94). -/
def decodeClass0 (w : Word) : Except Reject Instr :=
  if w = 0x00E0#16 then .ok .cls
  else if w = 0x00EE#16 then .ok .ret
  else .error .class0

/-- Class 8 compares the trailing nibble (R94). -/
def decodeClass8 (w : Word) : Except Reject Instr :=
  let n := fieldN w
  let x := fieldX w
  let y := fieldY w
  if n = 0x0#4 then .ok (.ldReg x y)
  else if n = 0x1#4 then .ok (.orReg x y)
  else if n = 0x2#4 then .ok (.andReg x y)
  else if n = 0x3#4 then .ok (.xorReg x y)
  else if n = 0x4#4 then .ok (.addReg x y)
  else if n = 0x5#4 then .ok (.subReg x y)
  else if n = 0x6#4 then .ok (.shr x y)
  else if n = 0x7#4 then .ok (.subnReg x y)
  else if n = 0xE#4 then .ok (.shl x y)
  else .error .class8

/-- Class E compares the low byte (R94). -/
def decodeClassE (w : Word) : Except Reject Instr :=
  if fieldKK w = 0x9E#8 then .ok (.skp (fieldX w))
  else if fieldKK w = 0xA1#8 then .ok (.sknp (fieldX w))
  else .error .classE

/-- Class F compares the low byte (R94). -/
def decodeClassF (w : Word) : Except Reject Instr :=
  let kk := fieldKK w
  let x := fieldX w
  if kk = 0x07#8 then .ok (.ldVxDT x)
  else if kk = 0x0A#8 then .ok (.ldVxK x)
  else if kk = 0x15#8 then .ok (.ldDTVx x)
  else if kk = 0x18#8 then .ok (.ldSTVx x)
  else if kk = 0x1E#8 then .ok (.addIVx x)
  else if kk = 0x29#8 then .ok (.ldFVx x)
  else if kk = 0x33#8 then .ok (.ldBVx x)
  else if kk = 0x55#8 then .ok (.ldIndVx x)
  else if kk = 0x65#8 then .ok (.ldVxInd x)
  else .error .classF

/-- R94: classify by the top nibble, then by the trailing nibble or byte in the ambiguous classes; a word that
matches no row is rejected by name (R97). -/
def decodeWord (w : Word) : Except Reject Instr :=
  let c := fieldClass w
  if c = 0x0#4 then decodeClass0 w
  else if c = 0x1#4 then .ok (.jp (fieldNNN w))
  else if c = 0x2#4 then .ok (.call (fieldNNN w))
  else if c = 0x3#4 then .ok (.seImm (fieldX w) (fieldKK w))
  else if c = 0x4#4 then .ok (.sneImm (fieldX w) (fieldKK w))
  else if c = 0x5#4 then
    if fieldN w = 0x0#4 then .ok (.seReg (fieldX w) (fieldY w)) else .error .class5
  else if c = 0x6#4 then .ok (.ldImm (fieldX w) (fieldKK w))
  else if c = 0x7#4 then .ok (.addImm (fieldX w) (fieldKK w))
  else if c = 0x8#4 then decodeClass8 w
  else if c = 0x9#4 then
    if fieldN w = 0x0#4 then .ok (.sneReg (fieldX w) (fieldY w)) else .error .class9
  else if c = 0xA#4 then .ok (.ldI (fieldNNN w))
  else if c = 0xB#4 then .error .classB
  else if c = 0xC#4 then .ok (.rnd (fieldX w) (fieldKK w))
  else if c = 0xD#4 then .ok (.drw (fieldX w) (fieldY w) (fieldN w))
  else if c = 0xE#4 then decodeClassE w
  else decodeClassF w

/-- R63: the byte at the lower address is the high byte of the word. -/
def wordOfBytes (hi lo : Byte) : Word := hi ++ lo

/-- The byte at the lower address, `w[15:8]` (R63). -/
def highByte (w : Word) : Byte := w.extractLsb' 8 8

/-- The byte at the higher address, `w[7:0]` (R63). -/
def lowByte (w : Word) : Byte := w.extractLsb' 0 8

/-- The decoder on bytes: one instruction from the front of the list and the bytes after it (R90, R100). -/
def decodeBytes : List Byte → Except Reject (Instr × List Byte)
  | hi :: lo :: rest =>
    match decodeWord (wordOfBytes hi lo) with
    | .ok i => .ok (i, rest)
    | .error r => .error r
  | [] => .error .truncated
  | [_] => .error .truncated

/-! ### Encoding (R92, R95) -/

/-- Format A: class, 12-bit address. -/
def encodeA (c : Nibble) (nnn : Addr) : Word := c ++ nnn

/-- Formats XK and X: class, selector, low byte (an immediate, or the constant that selects the operation). -/
def encodeXK (c x : Nibble) (kk : Byte) : Word := (c ++ x : Byte) ++ kk

/-- Formats XY and XYN: class, two selectors, trailing nibble (a constant, or the row count). -/
def encodeXYN (c x y n : Nibble) : Word := (c ++ x : Byte) ++ (y ++ n : Byte)

/-- The word of an instruction, from the patterns of R95. -/
def encode : Instr → Word
  | .cls => 0x00E0#16
  | .ret => 0x00EE#16
  | .jp nnn => encodeA 0x1#4 nnn
  | .call nnn => encodeA 0x2#4 nnn
  | .seImm x kk => encodeXK 0x3#4 x kk
  | .sneImm x kk => encodeXK 0x4#4 x kk
  | .seReg x y => encodeXYN 0x5#4 x y 0x0#4
  | .ldImm x kk => encodeXK 0x6#4 x kk
  | .addImm x kk => encodeXK 0x7#4 x kk
  | .ldReg x y => encodeXYN 0x8#4 x y 0x0#4
  | .orReg x y => encodeXYN 0x8#4 x y 0x1#4
  | .andReg x y => encodeXYN 0x8#4 x y 0x2#4
  | .xorReg x y => encodeXYN 0x8#4 x y 0x3#4
  | .addReg x y => encodeXYN 0x8#4 x y 0x4#4
  | .subReg x y => encodeXYN 0x8#4 x y 0x5#4
  | .shr x y => encodeXYN 0x8#4 x y 0x6#4
  | .subnReg x y => encodeXYN 0x8#4 x y 0x7#4
  | .shl x y => encodeXYN 0x8#4 x y 0xE#4
  | .sneReg x y => encodeXYN 0x9#4 x y 0x0#4
  | .ldI nnn => encodeA 0xA#4 nnn
  | .rnd x kk => encodeXK 0xC#4 x kk
  | .drw x y n => encodeXYN 0xD#4 x y n
  | .skp x => encodeXK 0xE#4 x 0x9E#8
  | .sknp x => encodeXK 0xE#4 x 0xA1#8
  | .ldVxDT x => encodeXK 0xF#4 x 0x07#8
  | .ldVxK x => encodeXK 0xF#4 x 0x0A#8
  | .ldDTVx x => encodeXK 0xF#4 x 0x15#8
  | .ldSTVx x => encodeXK 0xF#4 x 0x18#8
  | .addIVx x => encodeXK 0xF#4 x 0x1E#8
  | .ldFVx x => encodeXK 0xF#4 x 0x29#8
  | .ldBVx x => encodeXK 0xF#4 x 0x33#8
  | .ldIndVx x => encodeXK 0xF#4 x 0x55#8
  | .ldVxInd x => encodeXK 0xF#4 x 0x65#8

/-- The two bytes of an instruction as they lie in memory (R63, R90). -/
def encodeBytes (i : Instr) : List Byte := [highByte (encode i), lowByte (encode i)]

/-! ### The opcode map as masks and matches (R95) -/

/-- One row of R95: the row's key, its mask and its match. -/
structure OpcodeRow where
  mnemonic : String
  mask : Word
  pat : Word
  deriving DecidableEq, Repr

/-- Rows `00E0` to `4xkk` and the other unambiguous classes. -/
def opcodeRowsPlain : List OpcodeRow :=
  [⟨"CLS", 0xFFFF, 0x00E0⟩, ⟨"RET", 0xFFFF, 0x00EE⟩, ⟨"JP_nnn", 0xF000, 0x1000⟩, ⟨"CALL_nnn", 0xF000, 0x2000⟩,
   ⟨"SE_Vx_kk", 0xF000, 0x3000⟩, ⟨"SNE_Vx_kk", 0xF000, 0x4000⟩, ⟨"LD_Vx_kk", 0xF000, 0x6000⟩,
   ⟨"ADD_Vx_kk", 0xF000, 0x7000⟩, ⟨"LD_I_nnn", 0xF000, 0xA000⟩, ⟨"RND_Vx_kk", 0xF000, 0xC000⟩,
   ⟨"DRW_Vx_Vy_n", 0xF000, 0xD000⟩]

/-- Rows of classes 5, 8 and 9, selected by the trailing nibble. -/
def opcodeRowsNibble : List OpcodeRow :=
  [⟨"SE_Vx_Vy", 0xF00F, 0x5000⟩, ⟨"LD_Vx_Vy", 0xF00F, 0x8000⟩, ⟨"OR_Vx_Vy", 0xF00F, 0x8001⟩,
   ⟨"AND_Vx_Vy", 0xF00F, 0x8002⟩, ⟨"XOR_Vx_Vy", 0xF00F, 0x8003⟩, ⟨"ADD_Vx_Vy", 0xF00F, 0x8004⟩,
   ⟨"SUB_Vx_Vy", 0xF00F, 0x8005⟩, ⟨"SHR_Vx", 0xF00F, 0x8006⟩, ⟨"SUBN_Vx_Vy", 0xF00F, 0x8007⟩,
   ⟨"SHL_Vx", 0xF00F, 0x800E⟩, ⟨"SNE_Vx_Vy", 0xF00F, 0x9000⟩]

/-- Rows of classes E and F, selected by the low byte. -/
def opcodeRowsByte : List OpcodeRow :=
  [⟨"SKP_Vx", 0xF0FF, 0xE09E⟩, ⟨"SKNP_Vx", 0xF0FF, 0xE0A1⟩, ⟨"LD_Vx_DT", 0xF0FF, 0xF007⟩,
   ⟨"LD_Vx_K", 0xF0FF, 0xF00A⟩, ⟨"LD_DT_Vx", 0xF0FF, 0xF015⟩, ⟨"LD_ST_Vx", 0xF0FF, 0xF018⟩,
   ⟨"ADD_I_Vx", 0xF0FF, 0xF01E⟩, ⟨"LD_F_Vx", 0xF0FF, 0xF029⟩, ⟨"LD_B_Vx", 0xF0FF, 0xF033⟩,
   ⟨"LD_I_ind_Vx", 0xF0FF, 0xF055⟩, ⟨"LD_Vx_I_ind", 0xF0FF, 0xF065⟩]

/-- The 33 rows of R95. -/
def opcodeRows : List OpcodeRow := opcodeRowsPlain ++ opcodeRowsNibble ++ opcodeRowsByte

/-! ### The opcode table's own numbering -/

/-- The word the first 16 of `nbits` table bits hold: bit 0 of the table is bit 0 of the word (R90, R91: an
instruction is one 16-bit word), and bits from `nbits` up are 0. -/
def tableWord (nbits w : Nat) : Word := BitVec.ofNat 16 (w % 2 ^ nbits)

/-- What the decoder reads from the table's word `w`, laid out in memory order: high byte first (R63). -/
def decodeTableWord (nbits w : Nat) : Option Instr :=
  match decodeBytes [highByte (tableWord nbits w), lowByte (tableWord nbits w)] with
  | .ok (i, _) => some i
  | .error _ => none

end Sys2Proof
end

