-- ==== Sys2Proof/Config.lean ====
section
/-! DEFINITION. The fixed parameters of 00_scope.md R6 and the free values of R7. A free value has no body:
no proof can see what it is. -/

namespace Sys2Proof

/-- 4096 memory cells (R6, R60). -/
def Config.memSize : Nat := 4096

/-- The entry address 0x200 (R6, R291). -/
def Config.entry : Nat := 0x200

/-- The base of the glyph table, 0x50 (R6, R70). -/
def Config.glyphBase : Nat := 0x50

/-- The glyph table has 80 bytes (R6, R70). -/
def Config.glyphBytes : Nat := 80

/-- The largest loadable program, `4096 - 0x200 = 3584` bytes (R6, R264). -/
def Config.maxProgram : Nat := 3584

/-- MEM_RESET (R7, decision D18): what a cell outside the glyph table holds before anything has written it.
DESIGN CHOICE, safe: a free value per address, log entry 1. -/
opaque Config.memReset : Nat → Byte

/-- RND_SOURCE (R7, R211, decision D21): the random byte of the `n`-th draw when the host has injected none.
DESIGN CHOICE, safe: a free value per draw, log entry 5. -/
opaque Config.randomByte : Nat → Byte

end Sys2Proof
end

