-- ==== Sys2Proof/Machine/State.lean ====
section
/-! DEFINITION. The machine's state as plain data: the table of 10_state.md section 1, and three fields of the
model's own (the last cycle's status, the host's injected random bytes, the count of draws); the reset state (R39,
R290); and the reasons a step can stop. -/

namespace Sys2Proof.Machine

/-- Memory as the cells that are listed, in the canonical form `Memory.wf` of Machine/Ops.lean. -/
abbrev Memory := List Host.Cell

/-- What a cycle returns to the host (R128, R250): success, or the unrecognized word and the address it was
fetched from (decision D20). -/
inductive Status where
  | ok
  | unrecognizedInstruction (word addr : Word)
  deriving DecidableEq, Repr

/-- 10_state.md section 1. -/
structure State where
  /-- V[0] to V[15]; V[15] is VF (R20, R21). -/
  v : Vector Byte 16
  /-- Program counter (R23, R25). -/
  pc : Word
  /-- Index register I (R27). -/
  i : Word
  /-- STACK[0] to STACK[15] (R28). -/
  stack : Vector Word 16
  /-- SP, the next free entry of the stack (R29). -/
  sp : Nibble
  /-- DT, delay timer (R30). -/
  dt : Byte
  /-- ST, sound timer (R31). -/
  st : Byte
  /-- KEY[0] to KEY[15]; KEY[k] is bit k, 1 when pressed (R32, R270). -/
  key : BitVec 16
  /-- FB[0] to FB[2047]; FB[j] is bit j, pixel (x, y) is bit x + 64 * y (R33, R270). -/
  fb : BitVec 2048
  /-- IR, the word most recently fetched (R34). -/
  ir : Word
  /-- MEM[0] to MEM[4095] (R35, R60). -/
  mem : Memory
  /-- The model's own: the status the last cycle returned, an output that no step reads (R128). DESIGN CHOICE,
  safe, log entry 3. -/
  status : Status
  /-- The model's own: injected random bytes not used yet, oldest first (R211). DESIGN CHOICE, safe, log entry 5. -/
  rndIn : List Byte
  /-- The model's own: random bytes drawn so far, the counter of the free value `Config.randomByte`. DESIGN
  CHOICE, safe, log entry 5. -/
  draws : Nat
  deriving DecidableEq, Repr

/-- The document's two error kinds (R252). No step of the machine answers a fault: an unrecognized word ends its
cycle in a next state whose `status` says so (R126, R250, R257). -/
inductive Fault where
  /-- Raised by Safety.lean's `strictCycle`, the claims' view of a cycle, when the cycle's status is
  UnrecognizedInstruction (R250: a claim treats it as a fault of the run). Safe: it errs toward unprovable. -/
  | unrecognizedInstruction (word addr : Word)
  /-- Raised by `loadProgram`, the host's operation, for a program of more than 3584 bytes (R264). Safe: the
  document's own error, and memory is not written. -/
  | loadCapacity (length : Nat)
  deriving DecidableEq, Repr

/-- Why there is no meaning. -/
inductive Refusal where
  /-- Raised by an arm of `exec` whose instruction has no meaning yet; no arm does. Safe. -/
  | notModelled (mnemonic : String)
  deriving DecidableEq, Repr

/-- Right after reset (R39, R290): pc at the entry, everything else zero, memory with nothing listed (so the glyph
table at 0x050 to 0x09F and a free byte everywhere else). `I = 0` and `SP = 0` are R39's reading (decision D17).
`ir = 0` is a DESIGN CHOICE (IR_RESET, D18), unsafe, log entry 2; `status`, `rndIn` and `draws` are the model's own
fields, DESIGN CHOICE, log entries 3 and 5. -/
def State.reset : State where
  v := Vector.replicate 16 0#8
  pc := 0x0200#16
  i := 0#16
  stack := Vector.replicate 16 0#16
  sp := 0#4
  dt := 0#8
  st := 0#8
  key := 0#16
  fb := 0#2048
  ir := 0#16
  mem := []
  status := .ok
  rndIn := []
  draws := 0

end Sys2Proof.Machine
end

