-- ==== Sys2Proof/Machine/Ops.lean ====
section
/-! DEFINITION. The named operations every meaning is written over: registers, stack, memory, the fetch, the end of
a cycle with its timer decrement, the unrecognized-instruction error, and the draw of a random byte. -/

namespace Sys2Proof.Machine

/-! ### Reading and writing one field -/

/-- `V[r]` (R9, R20). -/
def State.reg (s : State) (r : Nibble) : Byte := s.v[r.toNat]'r.isLt

/-- `V[r] <- b` (R9, R20): no register is hard-wired. -/
def State.setReg (s : State) (r : Nibble) (b : Byte) : State := { s with v := s.v.set r.toNat b r.isLt }

/-- `STACK[p]` (R28). -/
def State.stackAt (s : State) (p : Nibble) : Word := s.stack[p.toNat]'p.isLt

/-- `STACK[p] <- w` (R28). -/
def State.setStackAt (s : State) (p : Nibble) (w : Word) : State :=
  { s with stack := s.stack.set p.toNat w p.isLt }

/-- `pc <- a`. -/
def State.setPc (s : State) (a : Word) : State := { s with pc := a }

/-- `I <- a`. -/
def State.setI (s : State) (a : Word) : State := { s with i := a }

/-- `SP <- p`. -/
def State.setSp (s : State) (p : Nibble) : State := { s with sp := p }

/-- `DT <- b`. -/
def State.setDt (s : State) (b : Byte) : State := { s with dt := b }

/-- `ST <- b`. -/
def State.setSt (s : State) (b : Byte) : State := { s with st := b }

/-- All of `FB` at once. -/
def State.setFb (s : State) (p : BitVec 2048) : State := { s with fb := p }

/-- All of `KEY` at once. -/
def State.setKeys (s : State) (k : BitVec 16) : State := { s with key := k }

/-- All of `MEM` at once. -/
def State.setMem (s : State) (m : Memory) : State := { s with mem := m }

/-- The status the cycle returns (R128). -/
def State.setStatus (s : State) (c : Status) : State := { s with status := c }

/-- `KEY[k]` (R9, R32). -/
def State.keyDown (s : State) (k : Nibble) : Bool := s.key.getLsbD k.toNat

/-- `FB[j]` (R9, R33). -/
def State.pixel (s : State) (j : Nat) : Bool := s.fb.getLsbD j

/-! ### The glyph table (R70) -/

/-- Glyphs 0 to 3. -/
def glyphs0to3 : List Byte :=
  [0xF0, 0x90, 0x90, 0x90, 0xF0, 0x20, 0x60, 0x20, 0x20, 0x70, 0xF0, 0x10, 0xF0, 0x80, 0xF0, 0xF0, 0x10, 0xF0, 0x10, 0xF0]

/-- Glyphs 4 to 7. -/
def glyphs4to7 : List Byte :=
  [0x90, 0x90, 0xF0, 0x10, 0x10, 0xF0, 0x80, 0xF0, 0x10, 0xF0, 0xF0, 0x80, 0xF0, 0x90, 0xF0, 0xF0, 0x10, 0x20, 0x40, 0x40]

/-- Glyphs 8 to B. -/
def glyphs8toB : List Byte :=
  [0xF0, 0x90, 0xF0, 0x90, 0xF0, 0xF0, 0x90, 0xF0, 0x10, 0xF0, 0xF0, 0x90, 0xF0, 0x90, 0x90, 0xE0, 0x90, 0xE0, 0x90, 0xE0]

/-- Glyphs C to F. -/
def glyphsCtoF : List Byte :=
  [0xF0, 0x80, 0x80, 0x80, 0xF0, 0xE0, 0x90, 0x90, 0x90, 0xE0, 0xF0, 0x80, 0xF0, 0x80, 0xF0, 0xF0, 0x80, 0xF0, 0x80, 0x80]

/-- The default of the open parameter GLYPH_TABLE (R7, R70, decision D7). PRESUMED, unsafe: the spec gives these
80 bytes from general knowledge; `initMachine` takes any other table. Log entry 4. -/
def glyphTable : List Byte := glyphs0to3 ++ (glyphs4to7 ++ (glyphs8toB ++ glyphsCtoF))

/-! ### Memory (20_memory.md) -/

/-- The known reset content of a cell: its glyph byte from 0x050 to 0x09F, nothing elsewhere (R39, R61). -/
def Memory.resetByte? (a : Nat) : Option Byte :=
  if Config.glyphBase ≤ a then glyphTable[a - Config.glyphBase]? else none

/-- What an unlisted cell reads as: its reset content, a free byte where the spec leaves it open (R39, D18). -/
def Memory.unlisted (a : Nat) : Byte := (Memory.resetByte? a).getD (Config.memReset a)

/-- The listed value of a cell, if it is listed. -/
def Memory.listed? : Memory → Nat → Option Byte
  | [], _ => none
  | c :: m, a => if c.1 = a then some c.2 else Memory.listed? m a

/-- The byte in cell `a`. -/
def Memory.read (m : Memory) (a : Nat) : Byte := (Memory.listed? m a).getD (Memory.unlisted a)

/-- List cell `a` with value `b`, in its place. -/
def Memory.insert : Memory → Nat → Byte → Memory
  | [], a, b => [(a, b)]
  | c :: m, a, b =>
    if a < c.1 then (a, b) :: c :: m
    else if a = c.1 then (a, b) :: m
    else c :: Memory.insert m a b

/-- Unlist cell `a`, wherever it is listed. -/
def Memory.erase : Memory → Nat → Memory
  | [], _ => []
  | c :: m, a => if c.1 = a then Memory.erase m a else c :: Memory.erase m a

/-- Store `b` in cell `a`, keeping the canonical form: a cell that gets back its known reset content is unlisted. -/
def Memory.write (m : Memory) (a : Nat) (b : Byte) : Memory :=
  if Memory.resetByte? a = some b then Memory.erase m a else Memory.insert m a b

/-- The listed addresses rise strictly from at least `lo`. -/
def Memory.risesFrom : Nat → Memory → Bool
  | _, [] => true
  | lo, c :: m => decide (lo ≤ c.1) && Memory.risesFrom (c.1 + 1) m

/-- A listed cell is a cell of the 4096, and does not hold its known reset content. -/
def Memory.cellOk (c : Host.Cell) : Bool :=
  decide (c.1 < Config.memSize) && decide (Memory.resetByte? c.1 ≠ some c.2)

/-- The canonical form: addresses strictly rising, below 4096, no entry equal to the known reset content. -/
def Memory.wf (m : Memory) : Bool := Memory.risesFrom 0 m && m.all Memory.cellOk

/-- R62: an address is reduced mod 4096 at the point of use. -/
def cellOf (a : Nat) : Nat := a % Config.memSize

/-- `MemRead(a, 1)` (R10, R62). -/
def State.memRead (s : State) (a : Nat) : Byte := s.mem.read (cellOf a)

/-- `MemWrite(a, 1, b)` (R10, R62, R68). -/
def State.memWrite (s : State) (a : Nat) (b : Byte) : State := s.setMem (s.mem.write (cellOf a) b)

/-! ### Fetch and advance: steps 1 and 2 of the cycle -/

/-- The word at `a`, high byte at the lower address, each byte's address reduced by itself (R63, R121). -/
def State.wordAt (s : State) (a : Word) : Word := wordOfBytes (s.memRead a.toNat) (s.memRead (a.toNat + 1))

/-- R121, R122: `IR` gets the word at `pc`; `pc` advances by 2 mod 65536. -/
def State.fetch (s : State) : State := { s with ir := s.wordAt s.pc, pc := s.pc + 2#16 }

/-! ### Control flow -/

/-- R147: a skip adds 2 to the advanced pc. -/
def State.skipIf (s : State) (c : Bool) : State := if c then s.setPc (s.pc + 2#16) else s

/-- R141: `STACK[SP] <- pc`, then `SP <- (SP + 1) mod 16` (decision D11). -/
def State.pushPc (s : State) : State := (s.setStackAt s.sp s.pc).setSp (s.sp + 1#4)

/-- R142: `SP <- (SP - 1) mod 16`, then `pc <- STACK[SP]` (decision D11). -/
def State.popPc (s : State) : State :=
  let t := s.setSp (s.sp - 1#4)
  t.setPc (t.stackAt t.sp)

/-! ### The random byte (R210, R211) -/

/-- The byte the next draw delivers: the oldest injected byte, else a free value. -/
def State.nextRandom (s : State) : Byte := s.rndIn.headD (Config.randomByte s.draws)

/-- The draw is consumed. -/
def State.drawn (s : State) : State := { s with rndIn := s.rndIn.tail, draws := s.draws + 1 }

/-! ### The end of a cycle: steps 5 and 6 -/

/-- R127: decrement a timer if it is positive. -/
def countDown (b : Byte) : Byte := if b = 0#8 then 0#8 else b - 1#8

/-- R127: the delay timer, then the sound timer. -/
def State.tick (s : State) : State := { s with dt := countDown s.dt, st := countDown s.st }

/-- Step 6 and the status the cycle returns (R127, R128). -/
def State.endCycle (s : State) (c : Status) : State := s.tick.setStatus c

/-- What the cycle makes of its handler's outcome: step 6 and the status Ok (R124, R127, R129). -/
def finishCycle (o : Host.Outcome State Fault Refusal) : Host.Outcome State Fault Refusal :=
  match o with
  | .next t => .next (t.endCycle .ok)
  | .fault r => .fault r
  | .refused r => .refused r

/-- The default of EXT_JP_V0 (R7, R98, decision D6): off, so class B is unrecognized. Log entry 6. -/
def extJpV0 : Bool := false

/-- Step 5, the one exception of the machine (R126, R250, R255): no handler runs, `pc` keeps the advanced value,
`IR` holds the word, the timers are decremented (decision D19), and the status carries the word and the address it
was fetched from (decision D20). `ext` is the open parameter EXT_JP_V0: where it is on, a class-B word is the jump
`pc <- (nnn + V[0]) mod 65536` of U14. -/
def State.unrecognized (ext : Bool) (s : State) : State :=
  if ext && fieldClass s.ir == 0xB#4 then
    (s.setPc ((fieldNNN s.ir).setWidth 16 + (s.reg 0#4).setWidth 16)).endCycle .ok
  else s.endCycle (.unrecognizedInstruction s.ir (s.pc - 2#16))

end Sys2Proof.Machine
end

