-- ==== Sys2Proof/Machine/Flags.lean ====
section
/-! DEFINITION. Every flag computation of the ALU (R26, R171) and the order in which flag and result are written
(R172). The only flag is `V[15]`. -/

namespace Sys2Proof.Machine

/-- The flag register VF (R21). -/
def flagReg : Nibble := 15#4

/-- A flag as the byte written to VF: 0 or 1 (R26). -/
def flagByte (f : Bool) : Byte := if f then 1#8 else 0#8

/-- `(a + b) mod 256` (R166, R171). -/
def addResult (a b : Byte) : Byte := BitVec.ofNat 8 ((a.toNat + b.toNat) % 256)

/-- Carry: the unsigned sum exceeds 255 (R166, R171). -/
def carryFlag (a b : Byte) : Bool := decide (255 < a.toNat + b.toNat)

/-- `(a - b) mod 256` (R167, R171). -/
def subResult (a b : Byte) : Byte := BitVec.ofNat 8 ((a.toNat + 256 - b.toNat) % 256)

/-- 1 iff minuend > subtrahend, so 0 for equal operands (R167, R171, decision D28). -/
def greaterFlag (minuend subtrahend : Byte) : Bool := decide (subtrahend.toNat < minuend.toNat)

/-- `a div 2` (R168). -/
def shrResult (a : Byte) : Byte := BitVec.ofNat 8 (a.toNat / 2)

/-- `a[0]`, the bit a right shift moves out (R168). -/
def shrFlag (a : Byte) : Bool := a.getLsbD 0

/-- `(a * 2) mod 256` (R170). -/
def shlResult (a : Byte) : Byte := BitVec.ofNat 8 (a.toNat * 2 % 256)

/-- `a[7]`, the bit a left shift moves out (R170). -/
def shlFlag (a : Byte) : Bool := a.getLsbD 7

/-- R172 (decision D10): VF gets the flag, then `V[x]` gets the result; with `x = 15` the result survives. -/
def State.setFlagged (s : State) (x : Nibble) (flag : Bool) (result : Byte) : State :=
  (s.setReg flagReg (flagByte flag)).setReg x result

end Sys2Proof.Machine
end

