-- ==== Sys2Proof/Machine/Arithmetic.lean ====
section
/-! DEFINITION. Immediate and register arithmetic (42_arithmetic.md), the whole ALU. All register operands are read
before any register is written (R22, R172); VF changes only where R26 says. -/

namespace Sys2Proof.Machine

/-- LD Vx, kk, R160. -/
def execLdImm (x : Nibble) (kk : Byte) (s : State) : Host.Outcome State Fault Refusal := .next (s.setReg x kk)

/-- ADD Vx, kk, R161: no flag. -/
def execAddImm (x : Nibble) (kk : Byte) (s : State) : Host.Outcome State Fault Refusal :=
  .next (s.setReg x (addResult (s.reg x) kk))

/-- LD Vx, Vy, R162. -/
def execLdReg (x y : Nibble) (s : State) : Host.Outcome State Fault Refusal := .next (s.setReg x (s.reg y))

/-- OR Vx, Vy, R163: VF untouched (decision D31). -/
def execOrReg (x y : Nibble) (s : State) : Host.Outcome State Fault Refusal :=
  .next (s.setReg x (s.reg x ||| s.reg y))

/-- AND Vx, Vy, R164. -/
def execAndReg (x y : Nibble) (s : State) : Host.Outcome State Fault Refusal :=
  .next (s.setReg x (s.reg x &&& s.reg y))

/-- XOR Vx, Vy, R165. -/
def execXorReg (x y : Nibble) (s : State) : Host.Outcome State Fault Refusal :=
  .next (s.setReg x (s.reg x ^^^ s.reg y))

/-- ADD Vx, Vy, R166. -/
def execAddReg (x y : Nibble) (s : State) : Host.Outcome State Fault Refusal :=
  .next (s.setFlagged x (carryFlag (s.reg x) (s.reg y)) (addResult (s.reg x) (s.reg y)))

/-- SUB Vx, Vy, R167: minuend `V[x]`. -/
def execSubReg (x y : Nibble) (s : State) : Host.Outcome State Fault Refusal :=
  .next (s.setFlagged x (greaterFlag (s.reg x) (s.reg y)) (subResult (s.reg x) (s.reg y)))

/-- SHR Vx, R168: `V[x]` in place, the field `y` is ignored (R99, decision D9). -/
def execShr (x _y : Nibble) (s : State) : Host.Outcome State Fault Refusal :=
  .next (s.setFlagged x (shrFlag (s.reg x)) (shrResult (s.reg x)))

/-- SUBN Vx, Vy, R169: minuend `V[y]`. -/
def execSubnReg (x y : Nibble) (s : State) : Host.Outcome State Fault Refusal :=
  .next (s.setFlagged x (greaterFlag (s.reg y) (s.reg x)) (subResult (s.reg y) (s.reg x)))

/-- SHL Vx, R170: `V[x]` in place, the field `y` is ignored (R99, decision D9). -/
def execShl (x _y : Nibble) (s : State) : Host.Outcome State Fault Refusal :=
  .next (s.setFlagged x (shlFlag (s.reg x)) (shlResult (s.reg x)))

end Sys2Proof.Machine
end

