-- ==== Sys2Proof/Machine/Operands.lean ====
section
/-! DEFINITION. Every operand form of the instruction set: zero-extended immediates (R93), the one addressing mode
(R196), the glyph address (R192), the key number (R148), the decimal digits (R193), the sprite's bits and
coordinates (R232, R233). Register operands are `State.reg` and `State.setReg`. -/

namespace Sys2Proof.Machine

/-- `zext_16(nnn)` (R93). -/
def zextAddr (nnn : Addr) : Word := nnn.setWidth 16

/-- `zext_16(V[x])` (R191). -/
def zextByte (b : Byte) : Word := b.setWidth 16

/-- The address `I + k` as a natural number; the access reduces it mod 4096 (R62, R196). -/
def State.ea (s : State) (k : Nat) : Nat := s.i.toNat + k

/-- `0x50 + 5 * V[x]` on the whole byte (R192, decision D15). -/
def glyphAddress (b : Byte) : Word := BitVec.ofNat 16 (Config.glyphBase + 5 * b.toNat)

/-- `V[x] mod 16`, the key a skip tests (R148, decision D14). -/
def keyIndex (b : Byte) : Nibble := BitVec.ofNat 4 (b.toNat % 16)

/-- The least pressed key, if any is pressed (R225). -/
def lowestKey (k : BitVec 16) : Option Nat := (List.range 16).find? (fun j => k.getLsbD j)

/-- `V div 100` (R193). -/
def hundreds (b : Byte) : Byte := BitVec.ofNat 8 (b.toNat / 100)

/-- `(V div 10) mod 10` (R193). -/
def tens (b : Byte) : Byte := BitVec.ofNat 8 (b.toNat / 10 % 10)

/-- `V mod 10` (R193). -/
def ones (b : Byte) : Byte := BitVec.ofNat 8 (b.toNat % 10)

/-- The bit of column `col` of a sprite row: bit 7 is column 0 (R232, decision D8). -/
def spriteBit (b : Byte) (col : Nat) : Bool := b.getLsbD (7 - col)

/-- The index in `FB` of the destination of the bit at (`col`, `row`): each coordinate wraps by itself (R233). -/
def destPixel (sx sy : Byte) (row col : Nat) : Nat := (sx.toNat + col) % 64 + 64 * ((sy.toNat + row) % 32)

end Sys2Proof.Machine
end

