-- ==== Sys2Proof/Machine/Display.lean ====
section
/-! DEFINITION. The display (47_display.md): blitter and collision detector. -/

namespace Sys2Proof.Machine

/-- CLS, R230: VF is not changed. -/
def execCls (s : State) : Host.Outcome State Fault Refusal := .next (s.setFb 0#2048)

/-- The framebuffer while a sprite is drawn, and whether a collision has happened. -/
structure Raster where
  fb : BitVec 2048
  hit : Bool
  deriving DecidableEq, Repr

/-- A set sprite bit lands on `FB[j]`: collision if the pixel was 1, then XOR with 1 (R231). -/
def Raster.toggle (p : Raster) (j : Nat) : Raster :=
  ⟨p.fb ^^^ BitVec.twoPow 2048 j, p.hit || p.fb.getLsbD j⟩

/-- One column of a sprite row: a clear bit leaves its pixel alone (R232). -/
def Raster.column (sx sy b : Byte) (row : Nat) (p : Raster) (col : Nat) : Raster :=
  if spriteBit b col then p.toggle (destPixel sx sy row col) else p

/-- One sprite row: columns 0 to 7 (R232). -/
def Raster.line (sx sy b : Byte) (row : Nat) (p : Raster) : Raster :=
  (List.range 8).foldl (Raster.column sx sy b row) p

/-- The whole sprite: the row `k` is the byte at `I + k` (R231, R232). -/
def State.blit (s : State) (sx sy : Byte) (n : Nat) : Raster :=
  (List.range n).foldl (fun p row => p.line sx sy (s.memRead (s.ea row)) row) ⟨s.fb, false⟩

/-- DRW Vx, Vy, n, R231: the coordinates are read before VF is touched (decision D27); VF ends 0, or 1 after any
collision; `n = 0` only clears VF. -/
def execDrw (x y n : Nibble) (s : State) : Host.Outcome State Fault Refusal :=
  let p := s.blit (s.reg x) (s.reg y) n.toNat
  .next ((s.setFb p.fb).setReg flagReg (flagByte p.hit))

end Sys2Proof.Machine
end

