-- ==== Sys2Proof/Machine/IndexMemory.lean ====
section
/-! DEFINITION. Index register and memory transfer (43_index_memory.md). `I` is not changed by an access (R196,
decision D16); VF is no flag here (decision D31). -/

namespace Sys2Proof.Machine

/-- LD I, nnn, R190. -/
def execLdI (nnn : Addr) (s : State) : Host.Outcome State Fault Refusal := .next (s.setI (zextAddr nnn))

/-- ADD I, Vx, R191: 16 bits, not masked when stored (decision D13). -/
def execAddIVx (x : Nibble) (s : State) : Host.Outcome State Fault Refusal :=
  .next (s.setI (s.i + zextByte (s.reg x)))

/-- LD F, Vx, R192. -/
def execLdFVx (x : Nibble) (s : State) : Host.Outcome State Fault Refusal :=
  .next (s.setI (glyphAddress (s.reg x)))

/-- LD B, Vx, R193: hundreds at `I`, tens at `I + 1`, ones at `I + 2`. -/
def execLdBVx (x : Nibble) (s : State) : Host.Outcome State Fault Refusal :=
  .next (((s.memWrite (s.ea 0) (hundreds (s.reg x))).memWrite (s.ea 1) (tens (s.reg x))).memWrite
    (s.ea 2) (ones (s.reg x)))

/-- One register of a block store: `MemWrite(I + k, 1, V[k])`. -/
def State.storeOne (s : State) (k : Nat) : State := s.memWrite (s.ea k) (s.reg (BitVec.ofNat 4 k))

/-- One register of a block load: `V[k] <- MemRead(I + k, 1)`. -/
def State.loadOne (s : State) (k : Nat) : State := s.setReg (BitVec.ofNat 4 k) (s.memRead (s.ea k))

/-- LD [I], Vx, R194: registers 0 to `x` inclusive, ascending (R78). -/
def execLdIndVx (x : Nibble) (s : State) : Host.Outcome State Fault Refusal :=
  .next ((List.range (x.toNat + 1)).foldl State.storeOne s)

/-- LD Vx, [I], R195: registers 0 to `x` inclusive, ascending (R78). -/
def execLdVxInd (x : Nibble) (s : State) : Host.Outcome State Fault Refusal :=
  .next ((List.range (x.toNat + 1)).foldl State.loadOne s)

end Sys2Proof.Machine
end

