-- ==== Sys2Proof/Machine/Input.lean ====
section
/-! DEFINITION. The key wait (46_input.md). -/

namespace Sys2Proof.Machine

/-- LD Vx, K, R225: with no key pressed `pc` is rewound by 2, so that the next cycle tries again (R226); else the
lowest pressed key goes to `V[x]`. -/
def execLdVxK (x : Nibble) (s : State) : Host.Outcome State Fault Refusal :=
  match lowestKey s.key with
  | none => .next (s.setPc (s.pc - 2#16))
  | some k => .next (s.setReg x (BitVec.ofNat 8 k))

end Sys2Proof.Machine
end

