-- ==== Sys2Proof/Machine/Random.lean ====
section
/-! DEFINITION. RND (44_random.md). -/

namespace Sys2Proof.Machine

/-- RND Vx, kk, R210: one draw, ANDed with the mask; the draw is consumed whatever the mask. -/
def execRnd (x : Nibble) (kk : Byte) (s : State) : Host.Outcome State Fault Refusal :=
  .next (s.drawn.setReg x (s.nextRandom &&& kk))

end Sys2Proof.Machine
end

