-- ==== Sys2Proof/Machine/Timers.lean ====
section
/-! DEFINITION. Timer access (45_timers.md); the countdown itself is `State.tick`, at the end of every cycle. -/

namespace Sys2Proof.Machine

/-- LD Vx, DT, R215: the value before this cycle's decrement (R218). -/
def execLdVxDT (x : Nibble) (s : State) : Host.Outcome State Fault Refusal := .next (s.setReg x s.dt)

/-- LD DT, Vx, R216. -/
def execLdDTVx (x : Nibble) (s : State) : Host.Outcome State Fault Refusal := .next (s.setDt (s.reg x))

/-- LD ST, Vx, R217. -/
def execLdSTVx (x : Nibble) (s : State) : Host.Outcome State Fault Refusal := .next (s.setSt (s.reg x))

end Sys2Proof.Machine
end

