-- ==== Sys2Proof/Machine/Cycle.lean ====
section
/-! DEFINITION. The cycle (R120, R129), for either value of the open parameter EXT_JP_V0 (R7): fetch, advance,
decode, dispatch or the error, timer decrement. -/

namespace Sys2Proof.Machine

/-- One cycle of the machine whose EXT_JP_V0 is `ext` (R129). It always answers a next state; the status it returns
is that state's `status` (R128). -/
def cycle (ext : Bool) (s : State) : Host.Outcome State Fault Refusal :=
  match decodeWord s.fetch.ir with
  | .ok i => finishCycle (exec i s.fetch)
  | .error _ => .next (s.fetch.unrecognized ext)

end Sys2Proof.Machine
end

