-- ==== Sys2Proof/Machine/Step.lean ====
section
/-! DEFINITION. The host's step, the cycle with EXT_JP_V0 at its default. And the host's probe that places one
instruction where the next cycle fetches. -/

namespace Sys2Proof.Machine

/-- One cycle with EXT_JP_V0 off, the default of R7 (log entry 6). -/
def step (s : State) : Host.Outcome State Fault Refusal := cycle extJpV0 s

/-- The table's word `w` stored at `pc`, high byte at the lower address (R63): the very next step runs it. It
stands for the loader (R263) of a program that begins with `w`; log entry 15. -/
def State.withFetchWord (s : State) (nbits w : Nat) : State :=
  (s.memWrite s.pc.toNat (highByte (tableWord nbits w))).memWrite (s.pc.toNat + 1) (lowByte (tableWord nbits w))

end Sys2Proof.Machine
end

