-- ==== Sys2Proof/WellFormed.lean ====
section
/-! DEFINITION. Well-formedness. An instruction's fields have the widths of R91 by their types, and R20, R93 and
R103 leave no field value out, so every term of `Instr` is well formed. A program image is well formed when the
loader's bound admits it (R264, R295). -/

namespace Sys2Proof

/-- Every constructor is listed so that an instruction with a bounded operand could not be added unnoticed. -/
def Instr.wellFormed : Instr → Bool
  | .cls | .ret => true
  | .jp _ | .call _ | .ldI _ => true
  | .seImm _ _ | .sneImm _ _ | .ldImm _ _ | .addImm _ _ | .rnd _ _ => true
  | .seReg _ _ | .sneReg _ _ | .ldReg _ _ | .orReg _ _ | .andReg _ _ | .xorReg _ _ => true
  | .addReg _ _ | .subReg _ _ | .subnReg _ _ | .shr _ _ | .shl _ _ => true
  | .drw _ _ _ => true
  | .skp _ | .sknp _ | .ldVxDT _ | .ldVxK _ | .ldDTVx _ | .ldSTVx _ => true
  | .addIVx _ | .ldFVx _ | .ldBVx _ | .ldIndVx _ | .ldVxInd _ => true

/-- R264, R295: a program image has at most 3584 bytes; the empty image is accepted (R263). -/
def imageWellFormed (bytes : List Byte) : Bool :=
  decide (bytes.length ≤ Config.maxProgram)

end Sys2Proof
end

