-- ==== Sys2Proof/Machine/HostPort.lean ====
section
/-! DEFINITION. The host's operations (60_exceptions.md section 9) and the one order in which a run may use them
(R271, R293): reset, one load, then cycles with inputs between them. No second reset or load is offered (U12), no
cycle after a failed load (U11), no key numbered above 15 (U15), no input during a cycle (U16). -/

namespace Sys2Proof.Machine

/-- Memory that holds `f a` in every cell `a`, in canonical form. -/
def Memory.ofContents (f : Nat → Byte) : Memory :=
  (List.range Config.memSize).filterMap
    (fun a => if Memory.resetByte? a = some (f a) then none else some (a, f a))

/-- The content of memory after reset for a glyph table and a MEM_RESET (R7, R39). -/
def resetContents (glyph memReset : Nat → Byte) (a : Nat) : Byte :=
  if Config.glyphBase ≤ a ∧ a < Config.glyphBase + Config.glyphBytes then glyph (a - Config.glyphBase)
  else memReset a

/-- `initialize()` (R262, R290, R39), for any value of the open parameters GLYPH_TABLE, MEM_RESET and IR_RESET
(R7). The effect does not depend on the state before it (R292); the random source has no reset behaviour (R291). -/
def initMachine (glyph memReset : Nat → Byte) (irReset : Word) (s : State) : State :=
  { State.reset with
    ir := irReset, mem := Memory.ofContents (resetContents glyph memReset), rndIn := s.rndIn, draws := s.draws }

/-- Bytes stored one after another from address `a` (R263: byte for byte, in order). -/
def State.writeBytes (s : State) (a : Nat) : List Byte → State
  | [] => s
  | b :: bs => (s.memWrite a b).writeBytes (a + 1) bs

/-- `loadProgram(bytes)` (R263, R71); too long a program is LoadError and writes nothing (R264). -/
def loadProgram (bytes : List Byte) (s : State) : Host.Outcome State Fault Refusal :=
  if imageWellFormed bytes then .next (s.writeBytes Config.entry bytes) else .fault (.loadCapacity bytes.length)

/-- `setKey(index, pressed)` (R266); the index is 0 to 15 by its type. -/
def setKey (k : Nibble) (pressed : Bool) (s : State) : State :=
  s.setKeys (if pressed then s.key ||| BitVec.twoPow 16 k.toNat else s.key &&& ~~~BitVec.twoPow 16 k.toNat)

/-- The host supplies a random byte for a later RND (R211, R299). -/
def injectRandom (b : Byte) (s : State) : State := { s with rndIn := s.rndIn ++ [b] }

/-- `getFramebuffer()` (R267, R236): element `x + 64 * y` is pixel (x, y). -/
def getFramebuffer (s : State) : Vector Bool 2048 := Vector.ofFn (fun j => s.pixel j.val)

/-- `getRegister(index)` (R269). -/
def getRegister (r : Nibble) (s : State) : Byte := s.reg r

/-- `getDelayTimer()` (R269). -/
def getDelayTimer (s : State) : Byte := s.dt

/-- `getSoundTimer()` (R269). -/
def getSoundTimer (s : State) : Byte := s.st

/-- What the host may do after the load, between cycles (R271). -/
inductive HostEvent where
  | cycle
  | setKey (k : Nibble) (pressed : Bool)
  | injectRandom (b : Byte)
  deriving DecidableEq, Repr

/-- One event of the host of the machine whose EXT_JP_V0 is `ext`; `cycle` is R268. -/
def hostStep (ext : Bool) (e : HostEvent) (s : State) : Host.Outcome State Fault Refusal :=
  match e with
  | .cycle => Sys2Proof.Machine.cycle ext s
  | .setKey k p => .next (setKey k p s)
  | .injectRandom b => .next (injectRandom b s)

/-- A run's events in order (R293), from a launched state. -/
def hostRun (ext : Bool) : List HostEvent → State → Host.Outcome State Fault Refusal
  | [], s => .next s
  | e :: es, s =>
    match hostStep ext e s with
    | .next t => hostRun ext es t
    | .fault r => .fault r
    | .refused r => .refused r

/-- The launch of a run (R293): reset, then one load; after a failed load there is no state to run from (R264). -/
def launch (glyph memReset : Nat → Byte) (irReset : Word) (bytes : List Byte) (s : State) :
    Host.Outcome State Fault Refusal :=
  loadProgram bytes (initMachine glyph memReset irReset s)

end Sys2Proof.Machine
end

