-- ==== Sys2Proof/Safety.lean ====
section
/-! DEFINITION. What a claim calls a safe run (R250: a cycle whose status is UnrecognizedInstruction is a fault of
the run), and the customary end of a run, the self-jump (R297). -/

namespace Sys2Proof.Machine

/-- A cycle as claims see it, for either EXT_JP_V0 (R7): the status UnrecognizedInstruction is a fault (R250,
U13). -/
def strictCycle (ext : Bool) (s : State) : Host.Outcome State Fault Refusal :=
  match cycle ext s with
  | .next t =>
    match t.status with
    | .ok => .next t
    | .unrecognizedInstruction w a => .fault (.unrecognizedInstruction w a)
  | .fault r => .fault r
  | .refused r => .refused r

/-- The claims' view of `step`. -/
def strictStep (s : State) : Host.Outcome State Fault Refusal := strictCycle extJpV0 s

/-- The state after one cycle; a step that stopped would leave it as it was, and none does (R124, R251). -/
def State.afterCycle (s : State) : State :=
  match step s with
  | .next t => t
  | .fault _ => s
  | .refused _ => s

/-- The state after `k` cycles with no input between them. -/
def State.afterCycles : Nat → State → State
  | 0, s => s
  | k + 1, s => State.afterCycles k s.afterCycle

/-- `k` cycles from `s`, each with status Ok, for either EXT_JP_V0. -/
def safeFor (ext : Bool) : Nat → State → Prop
  | 0, _ => True
  | k + 1, s => ∃ t, strictCycle ext s = .next t ∧ safeFor ext k t

/-- The instruction a cycle from `s` decodes, if its word is recognized. -/
def State.nextInstr? (s : State) : Option Instr :=
  match decodeWord (s.wordAt s.pc) with
  | .ok i => some i
  | .error _ => none

/-- R297: `pc = a` and the word at `a` is `JP a`. -/
def State.atSelfJump (s : State) : Prop :=
  ∃ nnn : Addr, s.nextInstr? = some (.jp nnn) ∧ nnn.setWidth 16 = s.pc

end Sys2Proof.Machine
end

