-- ==== Sys2Proof/Certificates/Slice0/Obligations.lean ====
section
/-! DEFINITION. The statements for the provers. Each docstring names the rule of spec/ it formalises, and the log
entry where a clause rests on a choice that is not the spec's. -/

open Sys2Proof Sys2Proof.Machine

namespace Sys2Proof.Machine

/-! ### The shapes of effect the statements share -/

/-- From `s` to `t` register `x` gets the number `b`, and nothing else changes. -/
def RegEffect (s t : State) (x : Nibble) (b : Nat) : Prop :=
  (t.reg x).toNat = b ∧ (∀ r, r ≠ x → t.reg r = s.reg r) ∧ t = { s with v := t.v }

/-- From `s` to `t` register `x` gets `result`, VF gets `flag` unless it is `x` itself, and nothing else changes. -/
def FlagEffect (s t : State) (x : Nibble) (flag result : Nat) : Prop :=
  (t.reg x).toNat = result ∧ (x ≠ 15#4 → (t.reg 15#4).toNat = flag) ∧
    (∀ r, r ≠ x → r ≠ 15#4 → t.reg r = s.reg r) ∧ t = { s with v := t.v }

/-- Nothing but memory changes. -/
def OnlyMemory (s t : State) : Prop := t = { s with mem := t.mem }

/-- The sprite bit at (`row`, `col`) of the `n`-row sprite at `I` is set (R232). -/
def State.spriteSet (s : State) (n row col : Nat) : Prop :=
  row < n ∧ col < 8 ∧ (s.memRead (s.ea row)).getLsbD (7 - col) = true

end Sys2Proof.Machine

/-! ### Encoding (30_encoding.md) -/

/-- Decoding the two bytes of any instruction, whatever follows them, gives that instruction with every operand,
and the bytes that follow (R90, R94, R95; the numbers are log entry 7). Every term of Instr is well formed. -/
def Obligations.DecodeInvertsEncode : Prop :=
  ∀ (i : Instr) (rest : List Byte), decodeBytes (encodeBytes i ++ rest) = .ok (i, rest)

/-- A recognized word is the word of the instruction it decodes to: no bit of it is dropped (R94, R99). So a word
that encodes no instruction is rejected, which is the strict comparison of every non-field bit, decisions D4 and D5
(log entry 8; the numbers are log entry 7, class B is log entry 6). -/
def Obligations.EncodeInvertsDecode : Prop :=
  ∀ (w : Word) (i : Instr), decodeWord w = .ok i → encode i = w

/-- An instruction is selected exactly when `(w AND mask) = match` for its row (R94; the numbers are log entry 7,
the strict masks log entry 8). -/
def Obligations.DecodeSelectsByMaskAndMatch : Prop :=
  ∀ (w : Word), ∀ row ∈ opcodeRows,
    (w &&& row.mask = row.pat ↔ ∃ i, decodeWord w = .ok i ∧ i.mnemonic = row.mnemonic)

/-- Decoding is total and unambiguous: for every word exactly one of the 33 rows matches, when the word is
recognized, or none does (R103; the numbers are log entry 7). -/
def Obligations.DecodingIsUnambiguous : Prop :=
  ∀ w : Word,
    (opcodeRows.filter (fun row => w &&& row.mask == row.pat)).length =
      (match decodeWord w with
        | .ok _ => 1
        | .error _ => 0)

/-- The unrecognized words are exactly those of R97's table (the numbers are log entry 7, the strict comparison of
every bit log entry 8, class B log entry 6). -/
def Obligations.UnrecognizedWordsAreTheTables : Prop :=
  ∀ w : Word, (∃ r, decodeWord w = .error r) ↔
    (fieldClass w = 0x0#4 ∧ fieldNNN w ≠ 0x0E0#12 ∧ fieldNNN w ≠ 0x0EE#12) ∨
    (fieldClass w = 0x5#4 ∧ fieldN w ≠ 0x0#4) ∨
    (fieldClass w = 0x8#4 ∧ fieldN w ∈ [0x8#4, 0x9#4, 0xA#4, 0xB#4, 0xC#4, 0xD#4, 0xF#4]) ∨
    (fieldClass w = 0x9#4 ∧ fieldN w ≠ 0x0#4) ∨
    fieldClass w = 0xB#4 ∨
    (fieldClass w = 0xE#4 ∧ fieldKK w ∉ [0x9E#8, 0xA1#8]) ∨
    (fieldClass w = 0xF#4 ∧
      fieldKK w ∉ [0x07#8, 0x0A#8, 0x15#8, 0x18#8, 0x1E#8, 0x29#8, 0x33#8, 0x55#8, 0x65#8])

/-- The bytes the document itself shows decode to the instructions it says (R96), and one word of each other family,
written out from R95 (the numbers of `F265`, `C30F`, `F015`, `F50A` and `D012` are log entry 7); last, that `0000` is
rejected, which is decision D5 (R98 a, log entry 8). -/
def Obligations.WrittenOutWordsDecode : Prop :=
  decodeBytes [0x00#8, 0xE0#8] = .ok (.cls, []) ∧
  decodeBytes [0x60#8, 0x0A#8, 0x61#8, 0x05#8] = .ok (.ldImm 0#4 0x0A#8, [0x61#8, 0x05#8]) ∧
  decodeBytes [0x80#8, 0x14#8] = .ok (.addReg 0#4 1#4, []) ∧
  decodeBytes [0x22#8, 0x0A#8] = .ok (.call 0x20A#12, []) ∧
  decodeBytes [0x00#8, 0xEE#8] = .ok (.ret, []) ∧
  decodeBytes [0xF2#8, 0x65#8] = .ok (.ldVxInd 2#4, []) ∧
  decodeBytes [0xC3#8, 0x0F#8] = .ok (.rnd 3#4 0x0F#8, []) ∧
  decodeBytes [0xF0#8, 0x15#8] = .ok (.ldDTVx 0#4, []) ∧
  decodeBytes [0xF5#8, 0x0A#8] = .ok (.ldVxK 5#4, []) ∧
  decodeBytes [0xD0#8, 0x12#8] = .ok (.drw 0#4 1#4 2#4, []) ∧
  decodeBytes [0x00#8, 0x00#8] = .error .class0

/-! ### The cycle (40_cycle_and_dispatch.md) -/

/-- When the word at `pc` decodes to `i`, the cycle is `i`'s handler on the state with `IR` loaded and `pc`
advanced, then the timer decrement and the status Ok (R120 to R124, R127 to R129). -/
def Obligations.StepRunsDecodedInstruction : Prop :=
  ∀ (s : State) (i : Instr), decodeWord (s.wordAt s.pc) = .ok i →
    step s =
      match exec i { s with ir := s.wordAt s.pc, pc := s.pc + 2#16 } with
      | .next t => .next { t with dt := countDown t.dt, st := countDown t.st, status := .ok }
      | .fault r => .fault r
      | .refused r => .refused r

/-- When the word at `pc` is unrecognized, no handler runs: `pc` is past the word, `IR` holds it, each timer is one
less, the status names the word and its address, and nothing else changes (R126, R250, R255; decisions D19, D20,
log entry 17; EXT_JP_V0 off, log entry 6). -/
def Obligations.UnrecognizedWordOnlyAdvances : Prop :=
  ∀ (s : State) (r : Reject), decodeWord (s.wordAt s.pc) = .error r →
    ∃ t, step s = .next t ∧ t.pc.toNat = (s.pc.toNat + 2) % 65536 ∧
      t.dt.toNat = s.dt.toNat - 1 ∧ t.st.toNat = s.st.toNat - 1 ∧
      t = { s with ir := s.wordAt s.pc, pc := t.pc, dt := t.dt, st := t.st,
                   status := .unrecognizedInstruction (s.wordAt s.pc) s.pc }

/-- A cycle leaves in `IR` the word of the two bytes at `pc`, the byte at the lower address high, each address
reduced mod 4096, whatever the parity of `pc` and whatever the instruction (R63, R65, R121; decisions D12, D23, log
entry 10). -/
def Obligations.CycleFetchesBigEndianWord : Prop :=
  ∀ s : State, ∃ t, step s = .next t ∧
    t.ir.toNat = 256 * (s.mem.read (s.pc.toNat % 4096)).toNat + (s.mem.read ((s.pc.toNat + 1) % 4096)).toNat

/-- Every cycle, recognized word or not, ends with each timer one less than its handler left it, or 0: the handler
leaves what LD DT or LD ST wrote (R216, R217, R130 a), else what was there (R127). In a cycle whose word is
unrecognized the decrement is decision D19 (conflict C2, log entry 17). -/
def Obligations.CycleDecrementsTimers : Prop :=
  ∀ s : State, ∃ t, step s = .next t ∧
    t.dt.toNat =
      (match s.nextInstr? with
        | some (.ldDTVx x) => (s.reg x).toNat
        | _ => s.dt.toNat) - 1 ∧
    t.st.toNat =
      (match s.nextInstr? with
        | some (.ldSTVx x) => (s.reg x).toNat
        | _ => s.st.toNat) - 1

/-- From DT = d, after `k` cycles none of which writes DT, `DT = max(d - k, 0)` (R130 c; subtraction of naturals).
In those of the `k` cycles whose word is unrecognized the decrement is decision D19 (U19, log entry 17). -/
def Obligations.DelayTimerCountsCycles : Prop :=
  ∀ (k : Nat) (s : State), (∀ j < k, ∀ x, (s.afterCycles j).nextInstr? ≠ some (.ldDTVx x)) →
    (s.afterCycles k).dt.toNat = s.dt.toNat - k

/-- No handler fails or blocks (R124, R251): every instruction answers a next state in every state. Every cycle does
too: for a recognized word by R124, and for an unrecognized word by the model's DESIGN CHOICE of log entry 17, since
R120 and R126 call that cycle failed and R250 has a claim treat it as a fault, which `strictStep` does. -/
def Obligations.NothingFaults : Prop :=
  (∀ (i : Instr) (s : State), ∃ t, exec i s = .next t) ∧ ∀ s : State, ∃ t, step s = .next t

/-- Where each instruction leaves `pc`, relative to the fetch address (R24; all sums mod 65536; which entry RET pops
is decision D11, log entry 9, and which key a skip tests is decision D14, log entry 13;
that `pc` wraps at 16 bits is decision D24, log entry 10). -/
def Obligations.CycleLeavesPc : Prop :=
  ∀ s : State, ∃ t, step s = .next t ∧
    t.pc =
      match s.nextInstr? with
      | some (.jp nnn) => nnn.setWidth 16
      | some (.call nnn) => nnn.setWidth 16
      | some .ret => s.stackAt (s.sp - 1#4)
      | some (.seImm x kk) => if s.reg x = kk then s.pc + 4#16 else s.pc + 2#16
      | some (.sneImm x kk) => if s.reg x = kk then s.pc + 2#16 else s.pc + 4#16
      | some (.seReg x y) => if s.reg x = s.reg y then s.pc + 4#16 else s.pc + 2#16
      | some (.sneReg x y) => if s.reg x = s.reg y then s.pc + 2#16 else s.pc + 4#16
      | some (.skp x) => if s.key.getLsbD ((s.reg x).toNat % 16) then s.pc + 4#16 else s.pc + 2#16
      | some (.sknp x) => if s.key.getLsbD ((s.reg x).toNat % 16) then s.pc + 2#16 else s.pc + 4#16
      | some (.ldVxK _) => if s.key = 0#16 then s.pc else s.pc + 2#16
      | _ => s.pc + 2#16

/-! ### Who writes what (10_state.md) -/

/-- A cycle changes a general register only where R22 says its instruction writes it: the destination, `V[0]` to
`V[x]` for the block load, and VF as a flag for the six instructions of R26 (decision D31, log entry 11). -/
def Obligations.RegistersChangeOnlyAsListed : Prop :=
  ∀ s : State, ∃ t, step s = .next t ∧ ∀ r : Nibble, t.reg r = s.reg r ∨
    match s.nextInstr? with
    | some (.ldImm x _) | some (.addImm x _) | some (.rnd x _) => r = x
    | some (.ldReg x _) | some (.orReg x _) | some (.andReg x _) | some (.xorReg x _) => r = x
    | some (.ldVxDT x) | some (.ldVxK x) => r = x
    | some (.addReg x _) | some (.subReg x _) | some (.subnReg x _) => r = x ∨ r = 15#4
    | some (.shr x _) | some (.shl x _) => r = x ∨ r = 15#4
    | some (.drw _ _ _) => r = 15#4
    | some (.ldVxInd x) => r.toNat ≤ x.toNat
    | _ => False

/-- Only CALL writes the call stack, and only CALL and RET move SP (R28, R29). -/
def Obligations.StackChangesOnlyByCallAndRet : Prop :=
  ∀ s : State, ∃ t, step s = .next t ∧
    (t.stack = s.stack ∨ ∃ nnn, s.nextInstr? = some (.call nnn)) ∧
    (t.sp = s.sp ∨ s.nextInstr? = some .ret ∨ ∃ nnn, s.nextInstr? = some (.call nnn))

/-- Only LD I, ADD I and LD F write the index register (R27, R196; decision D16, log entry 13). -/
def Obligations.IndexChangesOnlyByItsInstructions : Prop :=
  ∀ s : State, ∃ t, step s = .next t ∧
    (t.i = s.i ∨ (∃ nnn, s.nextInstr? = some (.ldI nnn)) ∨ ∃ x, s.nextInstr? = some (.addIVx x) ∨
      s.nextInstr? = some (.ldFVx x))

/-- The framebuffer is mutated only by the display opcode and the clear opcode (R33). -/
def Obligations.FramebufferChangesOnlyByDisplay : Prop :=
  ∀ s : State, ∃ t, step s = .next t ∧
    (t.fb = s.fb ∨ s.nextInstr? = some .cls ∨ ∃ x y n, s.nextInstr? = some (.drw x y n))

/-- Only LD B and LD [I],Vx write memory (R35, R67), and then only the cells `(I + k) mod 4096` with `k` up to 2 or
up to `x` (decision D12, log entry 10). -/
def Obligations.MemoryChangesOnlyByStores : Prop :=
  ∀ s : State, ∃ t, step s = .next t ∧ ∀ q : Nat, t.mem.read q = s.mem.read q ∨
    (∃ x, s.nextInstr? = some (.ldBVx x) ∧ ∃ k < 3, q = (s.i.toNat + k) % 4096) ∨
    (∃ x, s.nextInstr? = some (.ldIndVx x) ∧ ∃ k ≤ x.toNat, q = (s.i.toNat + k) % 4096)

/-- A cycle never writes the keys, and it draws one random byte if its instruction is RND and none otherwise (R32,
R131, R211; the counter of draws is the model's own, log entry 5). -/
def Obligations.InputsAreOnlyRead : Prop :=
  ∀ s : State, ∃ t, step s = .next t ∧ t.key = s.key ∧
    match s.nextInstr? with
    | some (.rnd _ _) => t.draws = s.draws + 1 ∧ t.rndIn = s.rndIn.tail
    | _ => t.draws = s.draws ∧ t.rndIn = s.rndIn

/-- No cycle reads the value an earlier cycle left in `IR`, nor the status it returned: with other values there the
cycle does exactly the same (R34, R128; the field `status` is the model's own, log entry 3). -/
def Obligations.CycleIgnoresIrAndStatus : Prop :=
  ∀ (s : State) (w : Word) (c : Status), step { s with ir := w, status := c } = step s

/-- Bits 15:12 of `I` never influence anything a program can observe: with other high bits the cycle does the same
to everything but `I`, and leaves the low 12 bits of `I` the same (R27, decision D13, log entry 10). -/
def Obligations.IndexHighBitsAreUnobservable : Prop :=
  ∀ (s : State) (j : Word), j.toNat % 4096 = s.i.toNat % 4096 →
    ∃ t u, step s = .next t ∧ step { s with i := j } = .next u ∧ u = { t with i := u.i } ∧
      u.i.toNat % 4096 = t.i.toNat % 4096

/-- Every cycle keeps memory canonical: addresses strictly rising and below 4096, no entry equal to the known reset
content (the model's own representation, log entry 21). -/
def Obligations.CycleKeepsMemoryCanonical : Prop :=
  ∀ s t : State, s.mem.wf = true → step s = .next t → t.mem.wf = true

/-- Memory is canonical after every reset, whatever the open parameters, and the loader keeps it so (the canonical
form is the model's own representation, log entry 21). -/
def Obligations.LaunchMemoryIsCanonical : Prop :=
  State.reset.mem.wf = true ∧
  (∀ (glyph memReset : Nat → Byte) (ir : Word) (s : State), (initMachine glyph memReset ir s).mem.wf = true) ∧
  ∀ (bytes : List Byte) (s t : State), s.mem.wf = true → loadProgram bytes s = .next t → t.mem.wf = true

/-- A store into the word after the storing instruction is what the very next cycle runs: where the block of
LD [I],Vx covers that word from register `k`, the next fetch sees `V[k] ++ V[k + 1]` (R64, R76; the addresses
wrap by decision D12, log entry 10). -/
def Obligations.NextFetchSeesStore : Prop :=
  ∀ (s : State) (x : Nibble) (k : Nat), s.nextInstr? = some (.ldIndVx x) → k + 1 ≤ x.toNat →
    cellOf (s.ea k) = cellOf (s.pc + 2#16).toNat →
    ∃ t u, step s = .next t ∧ step t = .next u ∧
      u.ir = (s.reg (BitVec.ofNat 4 k) ++ s.reg (BitVec.ofNat 4 (k + 1)) : BitVec (8 + 8))

/-! ### Control flow (41_control_flow.md) -/

/-- JP nnn loads the zero-extended immediate into `pc` and does nothing else (R140). -/
def Obligations.JpLoadsPc : Prop :=
  ∀ (nnn : Addr) (s : State), ∃ t, exec (.jp nnn) s = .next t ∧ t.pc.toNat = nnn.toNat ∧ t = { s with pc := t.pc }

/-- CALL writes the advanced pc at STACK[SP], increments SP mod 16 and jumps; every other stack entry and all other
state is unchanged (R141; decision D11, log entry 9). -/
def Obligations.CallPushesAdvancedPc : Prop :=
  ∀ (nnn : Addr) (s : State), ∃ t, exec (.call nnn) s = .next t ∧
    t.stackAt s.sp = s.pc ∧ (∀ p, p ≠ s.sp → t.stackAt p = s.stackAt p) ∧
    t.sp.toNat = (s.sp.toNat + 1) % 16 ∧ t.pc.toNat = nnn.toNat ∧
    t = { s with stack := t.stack, sp := t.sp, pc := t.pc }

/-- RET decrements SP mod 16 and loads `pc` from the entry there, which is not erased (R142; decision D11, log
entry 9). -/
def Obligations.RetPopsIntoPc : Prop :=
  ∀ s : State, ∃ t, exec .ret s = .next t ∧ ((t.sp.toNat : Int) = ((s.sp.toNat : Int) - 1) % 16) ∧
    t.pc = s.stackAt t.sp ∧ t = { s with sp := t.sp, pc := t.pc }

/-- A RET that finds the stack and SP as a CALL left them resumes after that CALL with SP as before it, whatever
happened to the rest of the state in between (R142, conflict C5; decision D11, log entry 9). -/
def Obligations.RetUndoesCall : Prop :=
  ∀ (nnn : Addr) (s u : State), ∃ t, exec (.call nnn) s = .next t ∧
    ∃ w, exec .ret { u with stack := t.stack, sp := t.sp } = .next w ∧ w.pc = s.pc ∧ w.sp = s.sp

/-- The four comparing skips move `pc` by 2 mod 65536 exactly on their condition and change nothing else (R143 to
R147). -/
def Obligations.CompareSkips : Prop :=
  ∀ (x y : Nibble) (kk : Byte) (s : State),
    exec (.seImm x kk) s = .next { s with pc := if (s.reg x).toNat = kk.toNat then s.pc + 2#16 else s.pc } ∧
    exec (.sneImm x kk) s = .next { s with pc := if (s.reg x).toNat = kk.toNat then s.pc else s.pc + 2#16 } ∧
    exec (.seReg x y) s = .next { s with pc := if (s.reg x).toNat = (s.reg y).toNat then s.pc + 2#16 else s.pc } ∧
    exec (.sneReg x y) s = .next { s with pc := if (s.reg x).toNat = (s.reg y).toNat then s.pc else s.pc + 2#16 }

/-- SKP and SKNP sample the key numbered by the low four bits of `V[x]`, move `pc` by 2 mod 65536 exactly on their
condition and change nothing else (R148, R149; decision D14, log entry 13). -/
def Obligations.KeySkips : Prop :=
  ∀ (x : Nibble) (s : State),
    exec (.skp x) s =
      .next { s with pc := if s.key.getLsbD ((s.reg x).toNat % 16) then s.pc + 2#16 else s.pc } ∧
    exec (.sknp x) s =
      .next { s with pc := if s.key.getLsbD ((s.reg x).toNat % 16) then s.pc else s.pc + 2#16 }

/-! ### Arithmetic (42_arithmetic.md) -/

/-- `6xkk` is LD Vx, kk: `V[x]` gets `kk`, no flag, nothing else changes (R160). -/
def Obligations.LdImmLoads : Prop :=
  ∀ (x : Nibble) (kk : Byte) (s : State), decodeWord (encodeXK 0x6#4 x kk) = .ok (.ldImm x kk) ∧
    ∃ t, exec (.ldImm x kk) s = .next t ∧ RegEffect s t x kk.toNat

/-- ADD Vx, kk: `(V[x] + kk) mod 256`, no flag, nothing else changes (R161). -/
def Obligations.AddImmWraps : Prop :=
  ∀ (x : Nibble) (kk : Byte) (s : State),
    ∃ t, exec (.addImm x kk) s = .next t ∧ RegEffect s t x (((s.reg x).toNat + kk.toNat) % 256)

/-- LD Vx, Vy copies; OR, AND and XOR act on each of the 8 bits; none of them touches VF unless it is the
destination (R162 to R165; decision D31, log entry 11). -/
def Obligations.CopyAndBitwise : Prop :=
  ∀ (x y : Nibble) (s : State),
    (∃ t, exec (.ldReg x y) s = .next t ∧ RegEffect s t x (s.reg y).toNat) ∧
    (∃ t, exec (.orReg x y) s = .next t ∧ RegEffect s t x (t.reg x).toNat ∧
      ∀ j < 8, (t.reg x).getLsbD j = ((s.reg x).getLsbD j || (s.reg y).getLsbD j)) ∧
    (∃ t, exec (.andReg x y) s = .next t ∧ RegEffect s t x (t.reg x).toNat ∧
      ∀ j < 8, (t.reg x).getLsbD j = ((s.reg x).getLsbD j && (s.reg y).getLsbD j)) ∧
    (∃ t, exec (.xorReg x y) s = .next t ∧ RegEffect s t x (t.reg x).toNat ∧
      ∀ j < 8, (t.reg x).getLsbD j = ((s.reg x).getLsbD j != (s.reg y).getLsbD j))

/-- ADD Vx, Vy: the sum mod 256, VF = 1 iff the sum exceeds 255; with x = 15 the sum stays (R166, R172; the order
of the two writes is decision D10, log entry 11). -/
def Obligations.AddRegCarries : Prop :=
  ∀ (x y : Nibble) (s : State), ∃ t, exec (.addReg x y) s = .next t ∧
    FlagEffect s t x (if (s.reg x).toNat + (s.reg y).toNat > 255 then 1 else 0)
      (((s.reg x).toNat + (s.reg y).toNat) % 256)

/-- SUB and SUBN: minuend minus subtrahend mod 256, VF = 1 iff minuend > subtrahend, so 0 for equal operands; with
x = 15 the difference stays (R167, R169, R171, R172; decisions D10, D28, log entry 11). -/
def Obligations.SubtractionsFlagStrictly : Prop :=
  ∀ (x y : Nibble) (s : State),
    (∃ t, exec (.subReg x y) s = .next t ∧
      FlagEffect s t x (if (s.reg x).toNat > (s.reg y).toNat then 1 else 0)
        ((((s.reg x).toNat : Int) - (s.reg y).toNat) % 256).toNat) ∧
    (∃ t, exec (.subnReg x y) s = .next t ∧
      FlagEffect s t x (if (s.reg y).toNat > (s.reg x).toNat then 1 else 0)
        ((((s.reg y).toNat : Int) - (s.reg x).toNat) % 256).toNat)

/-- SHR and SHL shift `V[x]` in place by one bit, zero filled, VF = the bit moved out, whatever `y` (R168, R170,
R99; decision D9, log entry 12); with x = 15 the result stays (R172; decision D10, log entry 11). -/
def Obligations.ShiftsMoveOneBit : Prop :=
  ∀ (x y : Nibble) (s : State),
    (∃ t, exec (.shr x y) s = .next t ∧ FlagEffect s t x ((s.reg x).toNat % 2) ((s.reg x).toNat / 2)) ∧
    (∃ t, exec (.shl x y) s = .next t ∧
      FlagEffect s t x ((s.reg x).toNat / 128) ((s.reg x).toNat * 2 % 256))

/-! ### Index register and memory (43_index_memory.md) -/

/-- LD I, ADD I (16 bits, not masked) and LD F (the whole byte, not masked) write `I` and nothing else (R190 to
R192; decisions D13 and D15, log entries 10 and 13; that ADD I leaves VF alone is decision D31, log entry 11). -/
def Obligations.IndexLoads : Prop :=
  ∀ (nnn : Addr) (x : Nibble) (s : State),
    (∃ t, exec (.ldI nnn) s = .next t ∧ t.i.toNat = nnn.toNat ∧ t = { s with i := t.i }) ∧
    (∃ t, exec (.addIVx x) s = .next t ∧ t.i.toNat = (s.i.toNat + (s.reg x).toNat) % 65536 ∧
      t = { s with i := t.i }) ∧
    (∃ t, exec (.ldFVx x) s = .next t ∧ t.i.toNat = 0x50 + 5 * (s.reg x).toNat ∧ t = { s with i := t.i })

/-- The one addressing mode: `(I + k) mod 4096`, which is `((I mod 4096) + k) mod 4096` (R62, R196;
decision D12, log entry 10). -/
def Obligations.EffectiveAddressWraps : Prop :=
  ∀ (s : State) (k : Nat), cellOf (s.ea k) = (s.i.toNat % 4096 + k) % 4096 ∧ cellOf (s.ea k) < 4096

/-- LD B stores the hundreds, tens and ones digit of `V[x]` at `I`, `I + 1`, `I + 2`, and changes no other cell and
no other state (R193; the order of the digits and `I` unchanged are log entry 13; the addresses wrap by
decision D12, log entry 10). -/
def Obligations.LdBStoresDigits : Prop :=
  ∀ (x : Nibble) (s : State), ∃ t, exec (.ldBVx x) s = .next t ∧ OnlyMemory s t ∧
    (t.mem.read (cellOf (s.ea 0))).toNat = (s.reg x).toNat / 100 ∧
    (t.mem.read (cellOf (s.ea 1))).toNat = (s.reg x).toNat / 10 % 10 ∧
    (t.mem.read (cellOf (s.ea 2))).toNat = (s.reg x).toNat % 10 ∧
    ∀ q, (∀ k < 3, q ≠ cellOf (s.ea k)) → t.mem.read q = s.mem.read q

/-- LD [I],Vx stores `V[0]` to `V[x]` at `I` to `I + x` inclusive, and changes no other cell and no other state
(R194; `I` unchanged is decision D16, log entry 13; the addresses wrap by decision D12, log entry 10). -/
def Obligations.BlockStoreWritesRegisters : Prop :=
  ∀ (x : Nibble) (s : State), ∃ t, exec (.ldIndVx x) s = .next t ∧ OnlyMemory s t ∧
    (∀ r : Nibble, r.toNat ≤ x.toNat → t.mem.read (cellOf (s.ea r.toNat)) = s.reg r) ∧
    ∀ q, (∀ k ≤ x.toNat, q ≠ cellOf (s.ea k)) → t.mem.read q = s.mem.read q

/-- LD Vx,[I] loads `V[0]` to `V[x]` from `I` to `I + x` inclusive, and changes no other register and no other state
(R195; `I` unchanged is decision D16, log entry 13; the addresses wrap by decision D12, log entry 10). -/
def Obligations.BlockLoadReadsRegisters : Prop :=
  ∀ (x : Nibble) (s : State), ∃ t, exec (.ldVxInd x) s = .next t ∧ t = { s with v := t.v } ∧
    ∀ r : Nibble, t.reg r = if r.toNat ≤ x.toNat then s.mem.read (cellOf (s.ea r.toNat)) else s.reg r

/-! ### Random, timers, input -/

/-- RND draws one byte `b` and leaves `b AND kk` in `V[x]`: the oldest injected byte, else a byte nothing
constrains; the draw is consumed, and nothing else changes (R210, R211; decision D21, log entry 5;
that VF is left alone is decision D31, log entry 11). -/
def Obligations.RndMasksOneDraw : Prop :=
  ∀ (x : Nibble) (kk : Byte) (s : State), ∃ t b, exec (.rnd x kk) s = .next t ∧
    t.reg x = (b &&& kk) ∧ (∀ r, r ≠ x → t.reg r = s.reg r) ∧
    (s.rndIn = [] → b = Config.randomByte s.draws) ∧ (∀ c cs, s.rndIn = c :: cs → b = c) ∧
    t = { s with v := t.v, rndIn := s.rndIn.tail, draws := s.draws + 1 }

/-- LD Vx,DT copies DT into `V[x]`; LD DT,Vx and LD ST,Vx copy `V[x]` into the timer; nothing else changes (R215 to
R217). -/
def Obligations.TimerMoves : Prop :=
  ∀ (x : Nibble) (s : State),
    (∃ t, exec (.ldVxDT x) s = .next t ∧ RegEffect s t x s.dt.toNat) ∧
    (∃ t, exec (.ldDTVx x) s = .next t ∧ t.dt = s.reg x ∧ t = { s with dt := t.dt }) ∧
    (∃ t, exec (.ldSTVx x) s = .next t ∧ t.st = s.reg x ∧ t = { s with st := t.st })

/-- LD Vx,DT reads DT as it was before its own cycle's decrement (R130 b, R218). -/
def Obligations.LdVxDTReadsBeforeDecrement : Prop :=
  ∀ (s : State) (x : Nibble), s.nextInstr? = some (.ldVxDT x) →
    ∃ t, step s = .next t ∧ t.reg x = s.dt ∧ t.dt.toNat = s.dt.toNat - 1

/-- With a key pressed LD Vx,K captures the least pressed key's number and changes nothing else (R225). -/
def Obligations.KeyWaitCapturesLowestKey : Prop :=
  ∀ (x : Nibble) (s : State) (k : Nat), k < 16 → s.key.getLsbD k = true → (∀ j < k, s.key.getLsbD j = false) →
    ∃ t, exec (.ldVxK x) s = .next t ∧ RegEffect s t x k

/-- With no key pressed the cycle of LD Vx,K ends with `pc` at the instruction itself, status Ok, and nothing changed
but `IR` and the timers, which count down (R225 a, R226, R130 d). -/
def Obligations.KeyWaitRewinds : Prop :=
  ∀ (x : Nibble) (s : State), s.nextInstr? = some (.ldVxK x) → s.key = 0#16 →
    step s =
      .next { s with ir := s.wordAt s.pc, dt := countDown s.dt, st := countDown s.st, status := .ok }

/-! ### Display (47_display.md) -/

/-- `00E0` is CLS: every pixel becomes 0, nothing else changes, VF included (R230). -/
def Obligations.ClsClearsFramebuffer : Prop :=
  decodeWord 0x00E0#16 = .ok .cls ∧
  ∀ s : State, ∃ t, exec .cls s = .next t ∧ (∀ j < 2048, t.pixel j = false) ∧ t = { s with fb := t.fb }

/-- DRW without a loop: the destination of every set sprite bit is complemented, every other pixel is kept, VF is 1
iff some such pixel was 1 and else 0, and nothing else changes; the coordinates are the registers' values before
VF is written (R231 to R234; decisions D8 and D27, log entry 14; `I` unchanged is decision D16, log entry 13; the
sprite's addresses wrap by decision D12, log entry 10). -/
def Obligations.DrawComplementsDestinations : Prop :=
  ∀ (x y n : Nibble) (s : State), ∃ t, exec (.drw x y n) s = .next t ∧
    (∀ row col, s.spriteSet n.toNat row col →
      t.pixel (((s.reg x).toNat + col) % 64 + 64 * (((s.reg y).toNat + row) % 32)) =
        !s.pixel (((s.reg x).toNat + col) % 64 + 64 * (((s.reg y).toNat + row) % 32))) ∧
    (∀ j, (∀ row col, s.spriteSet n.toNat row col →
        j ≠ ((s.reg x).toNat + col) % 64 + 64 * (((s.reg y).toNat + row) % 32)) → t.pixel j = s.pixel j) ∧
    ((t.reg 15#4 = 1#8 ∧ ∃ row col, s.spriteSet n.toNat row col ∧
        s.pixel (((s.reg x).toNat + col) % 64 + 64 * (((s.reg y).toNat + row) % 32)) = true) ∨
      (t.reg 15#4 = 0#8 ∧ ∀ row col, s.spriteSet n.toNat row col →
        s.pixel (((s.reg x).toNat + col) % 64 + 64 * (((s.reg y).toNat + row) % 32)) = false)) ∧
    (∀ r, r ≠ 15#4 → t.reg r = s.reg r) ∧ t = { s with fb := t.fb, v := t.v }

/-- Drawing is its own inverse: a second DRW with the same registers restores the framebuffer, and its VF is 1 iff
before the first some destination of a set bit was 0 (R235; which bit is set where and the coordinates are decisions
D8 and D27, log entry 14, and the sprite's addresses wrap by decision D12, log entry 10). -/
def Obligations.DrawTwiceRestores : Prop :=
  ∀ (x y n : Nibble) (s : State), ∃ t u, exec (.drw x y n) s = .next t ∧
    exec (.drw x y n) { t with v := s.v } = .next u ∧ u.fb = s.fb ∧
    (u.reg 15#4 = 1#8 ↔ ∃ row col, s.spriteSet n.toNat row col ∧
      s.pixel (((s.reg x).toNat + col) % 64 + 64 * (((s.reg y).toNat + row) % 32)) = false)

/-! ### Reset, loading and the host (60_exceptions.md, 70_reset_and_hazards.md) -/

/-- Reset, on any prior state and for any value of the open parameters: `pc` is 0x200, the glyph table is at 0x50 to
0x9F, and registers, stack, timers, keypad and framebuffer are zero (R290; that reset has this effect on any prior
state is R292's decision D32, log entry 18). -/
def Obligations.ResetEstablishes : Prop :=
  ∀ (glyph memReset : Nat → Byte) (ir : Word) (s : State), ∃ t, initMachine glyph memReset ir s = t ∧
    t.pc = 0x200#16 ∧ (∀ k < 80, t.memRead (0x50 + k) = glyph k) ∧
    (∀ r, t.reg r = 0#8) ∧ (∀ p, t.stackAt p = 0#16) ∧ t.dt = 0#8 ∧ t.st = 0#8 ∧
    (∀ k, t.keyDown k = false) ∧ ∀ j < 2048, t.pixel j = false

/-- The rest of reset, the model's and the spec's own choices: `I` and `SP` are zero (decision D17, log entry 16),
`IR` is the parameter (log entry 2), every cell outside the glyph table holds MEM_RESET (log entry 1), and the random
source is untouched (R291). On any prior state, by R292's decision D32 (log entry 18). -/
def Obligations.ResetLeavesParameters : Prop :=
  ∀ (glyph memReset : Nat → Byte) (ir : Word) (s : State), ∃ t, initMachine glyph memReset ir s = t ∧
    t.i = 0#16 ∧ t.sp = 0#4 ∧ t.ir = ir ∧ (∀ a < 4096, a < 0x50 ∨ 0xA0 ≤ a → t.memRead a = memReset a) ∧
    t.rndIn = s.rndIn ∧ t.draws = s.draws

/-- `State.reset` is reset with the model's choices for the open parameters: the default glyph table of R70 (log
entry 4), a free byte in every other cell (log entry 1), and IR_RESET = 0, so that its `IR` is 0 (DESIGN CHOICE, log
entry 2; the spec gives IR no reset value). Its memory reads as that of `initMachine` with those parameters, and every
other field is equal: `I` and `SP` are 0 by decision D17 (log entry 16), and the model's own fields are those of log
entries 3 and 5. -/
def Obligations.ResetStateIsDefaultReset : Prop :=
  ∀ t, initMachine (fun k => glyphTable.getD k 0#8) Config.memReset 0#16 State.reset = t →
    (∀ a, State.reset.memRead a = t.memRead a) ∧ { t with mem := State.reset.mem } = State.reset

/-- A program of at most 3584 bytes is copied byte for byte from 0x200; no other cell and no other state changes
(R263). -/
def Obligations.LoadInstallsProgram : Prop :=
  ∀ (bytes : List Byte) (s : State), bytes.length ≤ 3584 → ∃ t, loadProgram bytes s = .next t ∧
    (∀ k < bytes.length, t.mem.read (0x200 + k) = bytes.getD k 0#8) ∧
    (∀ q, q < 0x200 ∨ 0x200 + bytes.length ≤ q → t.mem.read q = s.mem.read q) ∧ OnlyMemory s t

/-- A program of more than 3584 bytes fails with the capacity error: there is no state in which part of it is
written (R264). -/
def Obligations.LoadRejectsOversize : Prop :=
  ∀ (bytes : List Byte) (s : State), 3584 < bytes.length →
    loadProgram bytes s = .fault (.loadCapacity bytes.length)

/-- After reset and load the first cycle fetches the image's first two bytes, byte 0 high, at 0x200 (R291, R293,
R295). -/
def Obligations.LaunchFetchesImageStart : Prop :=
  ∀ (glyph memReset : Nat → Byte) (ir : Word) (b c : Byte) (bs : List Byte) (s : State), bs.length ≤ 3582 →
    ∃ t u, launch glyph memReset ir (b :: c :: bs) s = .next t ∧ t.pc = 0x200#16 ∧ step t = .next u ∧
      u.ir = (b ++ c : BitVec (8 + 8))

/-- `setKey` writes one key bit and nothing else (R266). -/
def Obligations.SetKeyWritesOneKey : Prop :=
  ∀ (k : Nibble) (pressed : Bool) (s : State),
    (setKey k pressed s).keyDown k = pressed ∧ (∀ j, j ≠ k → (setKey k pressed s).keyDown j = s.keyDown j) ∧
    setKey k pressed s = { s with key := (setKey k pressed s).key }

/-- The host reads pixel (x, y) at element `x + 64 * y` of the snapshot, and the registers and timers as they stand
(R267, R269). -/
def Obligations.HostReadsState : Prop :=
  ∀ (s : State) (x y : Nat) (hx : x < 64) (hy : y < 32),
    (getFramebuffer s)[x + 64 * y]'(by omega) = s.fb.getLsbD (x + 64 * y) ∧
    (∀ r, getRegister r s = s.v[r.toNat]'r.isLt) ∧ getDelayTimer s = s.dt ∧ getSoundTimer s = s.st

/-- Once `pc = a` and the word at `a` is `JP a`, every later cycle leaves all state unchanged except that the timers
count down to 0 (R297, decision D33), and except `IR` and the status, which hold that word and Ok (log entry 3). -/
def Obligations.SelfJumpIsStable : Prop :=
  ∀ (k : Nat) (s : State), s.atSelfJump →
    ∃ t, s.afterCycles (k + 1) = t ∧ t.dt.toNat = s.dt.toNat - (k + 1) ∧ t.st.toNat = s.st.toNat - (k + 1) ∧
      t = { s with ir := s.wordAt s.pc, dt := t.dt, st := t.st, status := .ok }

/-- The claims' view of a cycle is the cycle itself, except that a cycle whose word is unrecognized is a fault that
names the word and its address (R250, decision D20, log entry 17). -/
def Obligations.StrictStepFaultsExactlyOnUnrecognized : Prop :=
  ∀ s : State, strictStep s =
    match s.nextInstr? with
    | some _ => step s
    | none => .fault (.unrecognizedInstruction (s.wordAt s.pc) s.pc)

/-- EXT_JP_V0 (R7, R98, U14, log entry 6). On a word outside class B the parameter changes nothing, so the cycle is
the machine's step for either value. Where it is on, a class-B word jumps to `nnn + V[0]` mod 65536 with status Ok,
and the cycle changes nothing else but `IR` and the timers, so a run goes on. Where it is off, as in the machine's
own step, the cycle is a fault of the run. The jump's number and effect are U14's, from general knowledge, outside the
rules. -/
def Obligations.ClassBFollowsItsParameter : Prop :=
  (∀ (ext : Bool) (s : State), fieldClass (s.wordAt s.pc) ≠ 0xB#4 → cycle ext s = step s) ∧
  ∀ s : State, fieldClass (s.wordAt s.pc) = 0xB#4 →
    (∃ t, cycle true s = .next t ∧ strictCycle true s = .next t ∧
      t.pc.toNat = ((fieldNNN (s.wordAt s.pc)).toNat + (s.reg 0#4).toNat) % 65536 ∧
      t = { s with ir := s.wordAt s.pc, pc := t.pc, dt := countDown s.dt, st := countDown s.st, status := .ok }) ∧
    cycle false s = step s ∧
    strictCycle false s = .fault (.unrecognizedInstruction (s.wordAt s.pc) s.pc)
end

