-- ==== Sys2Proof/Laws/State.lean ====
section
/-! SUPPORT. One lemma per field per update of the state, each true by rfl, and the register and stack accessors
over the updates. -/

namespace Sys2Proof.Machine

/-! ### setReg -/

@[simp] theorem State.setReg_v (s : State) (r : Nibble) (b : Byte) : (s.setReg r b).v = s.v.set r.toNat b r.isLt := rfl
@[simp] theorem State.setReg_pc (s : State) (r : Nibble) (b : Byte) : (s.setReg r b).pc = s.pc := rfl
@[simp] theorem State.setReg_i (s : State) (r : Nibble) (b : Byte) : (s.setReg r b).i = s.i := rfl
@[simp] theorem State.setReg_stack (s : State) (r : Nibble) (b : Byte) : (s.setReg r b).stack = s.stack := rfl
@[simp] theorem State.setReg_sp (s : State) (r : Nibble) (b : Byte) : (s.setReg r b).sp = s.sp := rfl
@[simp] theorem State.setReg_dt (s : State) (r : Nibble) (b : Byte) : (s.setReg r b).dt = s.dt := rfl
@[simp] theorem State.setReg_st (s : State) (r : Nibble) (b : Byte) : (s.setReg r b).st = s.st := rfl
@[simp] theorem State.setReg_key (s : State) (r : Nibble) (b : Byte) : (s.setReg r b).key = s.key := rfl
@[simp] theorem State.setReg_fb (s : State) (r : Nibble) (b : Byte) : (s.setReg r b).fb = s.fb := rfl
@[simp] theorem State.setReg_ir (s : State) (r : Nibble) (b : Byte) : (s.setReg r b).ir = s.ir := rfl
@[simp] theorem State.setReg_mem (s : State) (r : Nibble) (b : Byte) : (s.setReg r b).mem = s.mem := rfl
@[simp] theorem State.setReg_status (s : State) (r : Nibble) (b : Byte) : (s.setReg r b).status = s.status := rfl
@[simp] theorem State.setReg_rndIn (s : State) (r : Nibble) (b : Byte) : (s.setReg r b).rndIn = s.rndIn := rfl
@[simp] theorem State.setReg_draws (s : State) (r : Nibble) (b : Byte) : (s.setReg r b).draws = s.draws := rfl

/-! ### setStackAt -/

@[simp] theorem State.setStackAt_v (s : State) (p : Nibble) (w : Word) : (s.setStackAt p w).v = s.v := rfl
@[simp] theorem State.setStackAt_pc (s : State) (p : Nibble) (w : Word) : (s.setStackAt p w).pc = s.pc := rfl
@[simp] theorem State.setStackAt_i (s : State) (p : Nibble) (w : Word) : (s.setStackAt p w).i = s.i := rfl
@[simp] theorem State.setStackAt_stack (s : State) (p : Nibble) (w : Word) : (s.setStackAt p w).stack = s.stack.set p.toNat w p.isLt := rfl
@[simp] theorem State.setStackAt_sp (s : State) (p : Nibble) (w : Word) : (s.setStackAt p w).sp = s.sp := rfl
@[simp] theorem State.setStackAt_dt (s : State) (p : Nibble) (w : Word) : (s.setStackAt p w).dt = s.dt := rfl
@[simp] theorem State.setStackAt_st (s : State) (p : Nibble) (w : Word) : (s.setStackAt p w).st = s.st := rfl
@[simp] theorem State.setStackAt_key (s : State) (p : Nibble) (w : Word) : (s.setStackAt p w).key = s.key := rfl
@[simp] theorem State.setStackAt_fb (s : State) (p : Nibble) (w : Word) : (s.setStackAt p w).fb = s.fb := rfl
@[simp] theorem State.setStackAt_ir (s : State) (p : Nibble) (w : Word) : (s.setStackAt p w).ir = s.ir := rfl
@[simp] theorem State.setStackAt_mem (s : State) (p : Nibble) (w : Word) : (s.setStackAt p w).mem = s.mem := rfl
@[simp] theorem State.setStackAt_status (s : State) (p : Nibble) (w : Word) : (s.setStackAt p w).status = s.status := rfl
@[simp] theorem State.setStackAt_rndIn (s : State) (p : Nibble) (w : Word) : (s.setStackAt p w).rndIn = s.rndIn := rfl
@[simp] theorem State.setStackAt_draws (s : State) (p : Nibble) (w : Word) : (s.setStackAt p w).draws = s.draws := rfl

/-! ### setPc -/

@[simp] theorem State.setPc_v (s : State) (a : Word) : (s.setPc a).v = s.v := rfl
@[simp] theorem State.setPc_pc (s : State) (a : Word) : (s.setPc a).pc = a := rfl
@[simp] theorem State.setPc_i (s : State) (a : Word) : (s.setPc a).i = s.i := rfl
@[simp] theorem State.setPc_stack (s : State) (a : Word) : (s.setPc a).stack = s.stack := rfl
@[simp] theorem State.setPc_sp (s : State) (a : Word) : (s.setPc a).sp = s.sp := rfl
@[simp] theorem State.setPc_dt (s : State) (a : Word) : (s.setPc a).dt = s.dt := rfl
@[simp] theorem State.setPc_st (s : State) (a : Word) : (s.setPc a).st = s.st := rfl
@[simp] theorem State.setPc_key (s : State) (a : Word) : (s.setPc a).key = s.key := rfl
@[simp] theorem State.setPc_fb (s : State) (a : Word) : (s.setPc a).fb = s.fb := rfl
@[simp] theorem State.setPc_ir (s : State) (a : Word) : (s.setPc a).ir = s.ir := rfl
@[simp] theorem State.setPc_mem (s : State) (a : Word) : (s.setPc a).mem = s.mem := rfl
@[simp] theorem State.setPc_status (s : State) (a : Word) : (s.setPc a).status = s.status := rfl
@[simp] theorem State.setPc_rndIn (s : State) (a : Word) : (s.setPc a).rndIn = s.rndIn := rfl
@[simp] theorem State.setPc_draws (s : State) (a : Word) : (s.setPc a).draws = s.draws := rfl

/-! ### setI -/

@[simp] theorem State.setI_v (s : State) (a : Word) : (s.setI a).v = s.v := rfl
@[simp] theorem State.setI_pc (s : State) (a : Word) : (s.setI a).pc = s.pc := rfl
@[simp] theorem State.setI_i (s : State) (a : Word) : (s.setI a).i = a := rfl
@[simp] theorem State.setI_stack (s : State) (a : Word) : (s.setI a).stack = s.stack := rfl
@[simp] theorem State.setI_sp (s : State) (a : Word) : (s.setI a).sp = s.sp := rfl
@[simp] theorem State.setI_dt (s : State) (a : Word) : (s.setI a).dt = s.dt := rfl
@[simp] theorem State.setI_st (s : State) (a : Word) : (s.setI a).st = s.st := rfl
@[simp] theorem State.setI_key (s : State) (a : Word) : (s.setI a).key = s.key := rfl
@[simp] theorem State.setI_fb (s : State) (a : Word) : (s.setI a).fb = s.fb := rfl
@[simp] theorem State.setI_ir (s : State) (a : Word) : (s.setI a).ir = s.ir := rfl
@[simp] theorem State.setI_mem (s : State) (a : Word) : (s.setI a).mem = s.mem := rfl
@[simp] theorem State.setI_status (s : State) (a : Word) : (s.setI a).status = s.status := rfl
@[simp] theorem State.setI_rndIn (s : State) (a : Word) : (s.setI a).rndIn = s.rndIn := rfl
@[simp] theorem State.setI_draws (s : State) (a : Word) : (s.setI a).draws = s.draws := rfl

/-! ### setSp -/

@[simp] theorem State.setSp_v (s : State) (p : Nibble) : (s.setSp p).v = s.v := rfl
@[simp] theorem State.setSp_pc (s : State) (p : Nibble) : (s.setSp p).pc = s.pc := rfl
@[simp] theorem State.setSp_i (s : State) (p : Nibble) : (s.setSp p).i = s.i := rfl
@[simp] theorem State.setSp_stack (s : State) (p : Nibble) : (s.setSp p).stack = s.stack := rfl
@[simp] theorem State.setSp_sp (s : State) (p : Nibble) : (s.setSp p).sp = p := rfl
@[simp] theorem State.setSp_dt (s : State) (p : Nibble) : (s.setSp p).dt = s.dt := rfl
@[simp] theorem State.setSp_st (s : State) (p : Nibble) : (s.setSp p).st = s.st := rfl
@[simp] theorem State.setSp_key (s : State) (p : Nibble) : (s.setSp p).key = s.key := rfl
@[simp] theorem State.setSp_fb (s : State) (p : Nibble) : (s.setSp p).fb = s.fb := rfl
@[simp] theorem State.setSp_ir (s : State) (p : Nibble) : (s.setSp p).ir = s.ir := rfl
@[simp] theorem State.setSp_mem (s : State) (p : Nibble) : (s.setSp p).mem = s.mem := rfl
@[simp] theorem State.setSp_status (s : State) (p : Nibble) : (s.setSp p).status = s.status := rfl
@[simp] theorem State.setSp_rndIn (s : State) (p : Nibble) : (s.setSp p).rndIn = s.rndIn := rfl
@[simp] theorem State.setSp_draws (s : State) (p : Nibble) : (s.setSp p).draws = s.draws := rfl

/-! ### setDt -/

@[simp] theorem State.setDt_v (s : State) (b : Byte) : (s.setDt b).v = s.v := rfl
@[simp] theorem State.setDt_pc (s : State) (b : Byte) : (s.setDt b).pc = s.pc := rfl
@[simp] theorem State.setDt_i (s : State) (b : Byte) : (s.setDt b).i = s.i := rfl
@[simp] theorem State.setDt_stack (s : State) (b : Byte) : (s.setDt b).stack = s.stack := rfl
@[simp] theorem State.setDt_sp (s : State) (b : Byte) : (s.setDt b).sp = s.sp := rfl
@[simp] theorem State.setDt_dt (s : State) (b : Byte) : (s.setDt b).dt = b := rfl
@[simp] theorem State.setDt_st (s : State) (b : Byte) : (s.setDt b).st = s.st := rfl
@[simp] theorem State.setDt_key (s : State) (b : Byte) : (s.setDt b).key = s.key := rfl
@[simp] theorem State.setDt_fb (s : State) (b : Byte) : (s.setDt b).fb = s.fb := rfl
@[simp] theorem State.setDt_ir (s : State) (b : Byte) : (s.setDt b).ir = s.ir := rfl
@[simp] theorem State.setDt_mem (s : State) (b : Byte) : (s.setDt b).mem = s.mem := rfl
@[simp] theorem State.setDt_status (s : State) (b : Byte) : (s.setDt b).status = s.status := rfl
@[simp] theorem State.setDt_rndIn (s : State) (b : Byte) : (s.setDt b).rndIn = s.rndIn := rfl
@[simp] theorem State.setDt_draws (s : State) (b : Byte) : (s.setDt b).draws = s.draws := rfl

/-! ### setSt -/

@[simp] theorem State.setSt_v (s : State) (b : Byte) : (s.setSt b).v = s.v := rfl
@[simp] theorem State.setSt_pc (s : State) (b : Byte) : (s.setSt b).pc = s.pc := rfl
@[simp] theorem State.setSt_i (s : State) (b : Byte) : (s.setSt b).i = s.i := rfl
@[simp] theorem State.setSt_stack (s : State) (b : Byte) : (s.setSt b).stack = s.stack := rfl
@[simp] theorem State.setSt_sp (s : State) (b : Byte) : (s.setSt b).sp = s.sp := rfl
@[simp] theorem State.setSt_dt (s : State) (b : Byte) : (s.setSt b).dt = s.dt := rfl
@[simp] theorem State.setSt_st (s : State) (b : Byte) : (s.setSt b).st = b := rfl
@[simp] theorem State.setSt_key (s : State) (b : Byte) : (s.setSt b).key = s.key := rfl
@[simp] theorem State.setSt_fb (s : State) (b : Byte) : (s.setSt b).fb = s.fb := rfl
@[simp] theorem State.setSt_ir (s : State) (b : Byte) : (s.setSt b).ir = s.ir := rfl
@[simp] theorem State.setSt_mem (s : State) (b : Byte) : (s.setSt b).mem = s.mem := rfl
@[simp] theorem State.setSt_status (s : State) (b : Byte) : (s.setSt b).status = s.status := rfl
@[simp] theorem State.setSt_rndIn (s : State) (b : Byte) : (s.setSt b).rndIn = s.rndIn := rfl
@[simp] theorem State.setSt_draws (s : State) (b : Byte) : (s.setSt b).draws = s.draws := rfl

/-! ### setFb -/

@[simp] theorem State.setFb_v (s : State) (p : BitVec 2048) : (s.setFb p).v = s.v := rfl
@[simp] theorem State.setFb_pc (s : State) (p : BitVec 2048) : (s.setFb p).pc = s.pc := rfl
@[simp] theorem State.setFb_i (s : State) (p : BitVec 2048) : (s.setFb p).i = s.i := rfl
@[simp] theorem State.setFb_stack (s : State) (p : BitVec 2048) : (s.setFb p).stack = s.stack := rfl
@[simp] theorem State.setFb_sp (s : State) (p : BitVec 2048) : (s.setFb p).sp = s.sp := rfl
@[simp] theorem State.setFb_dt (s : State) (p : BitVec 2048) : (s.setFb p).dt = s.dt := rfl
@[simp] theorem State.setFb_st (s : State) (p : BitVec 2048) : (s.setFb p).st = s.st := rfl
@[simp] theorem State.setFb_key (s : State) (p : BitVec 2048) : (s.setFb p).key = s.key := rfl
@[simp] theorem State.setFb_fb (s : State) (p : BitVec 2048) : (s.setFb p).fb = p := rfl
@[simp] theorem State.setFb_ir (s : State) (p : BitVec 2048) : (s.setFb p).ir = s.ir := rfl
@[simp] theorem State.setFb_mem (s : State) (p : BitVec 2048) : (s.setFb p).mem = s.mem := rfl
@[simp] theorem State.setFb_status (s : State) (p : BitVec 2048) : (s.setFb p).status = s.status := rfl
@[simp] theorem State.setFb_rndIn (s : State) (p : BitVec 2048) : (s.setFb p).rndIn = s.rndIn := rfl
@[simp] theorem State.setFb_draws (s : State) (p : BitVec 2048) : (s.setFb p).draws = s.draws := rfl

/-! ### setKeys -/

@[simp] theorem State.setKeys_v (s : State) (k : BitVec 16) : (s.setKeys k).v = s.v := rfl
@[simp] theorem State.setKeys_pc (s : State) (k : BitVec 16) : (s.setKeys k).pc = s.pc := rfl
@[simp] theorem State.setKeys_i (s : State) (k : BitVec 16) : (s.setKeys k).i = s.i := rfl
@[simp] theorem State.setKeys_stack (s : State) (k : BitVec 16) : (s.setKeys k).stack = s.stack := rfl
@[simp] theorem State.setKeys_sp (s : State) (k : BitVec 16) : (s.setKeys k).sp = s.sp := rfl
@[simp] theorem State.setKeys_dt (s : State) (k : BitVec 16) : (s.setKeys k).dt = s.dt := rfl
@[simp] theorem State.setKeys_st (s : State) (k : BitVec 16) : (s.setKeys k).st = s.st := rfl
@[simp] theorem State.setKeys_key (s : State) (k : BitVec 16) : (s.setKeys k).key = k := rfl
@[simp] theorem State.setKeys_fb (s : State) (k : BitVec 16) : (s.setKeys k).fb = s.fb := rfl
@[simp] theorem State.setKeys_ir (s : State) (k : BitVec 16) : (s.setKeys k).ir = s.ir := rfl
@[simp] theorem State.setKeys_mem (s : State) (k : BitVec 16) : (s.setKeys k).mem = s.mem := rfl
@[simp] theorem State.setKeys_status (s : State) (k : BitVec 16) : (s.setKeys k).status = s.status := rfl
@[simp] theorem State.setKeys_rndIn (s : State) (k : BitVec 16) : (s.setKeys k).rndIn = s.rndIn := rfl
@[simp] theorem State.setKeys_draws (s : State) (k : BitVec 16) : (s.setKeys k).draws = s.draws := rfl

/-! ### setMem -/

@[simp] theorem State.setMem_v (s : State) (m : Memory) : (s.setMem m).v = s.v := rfl
@[simp] theorem State.setMem_pc (s : State) (m : Memory) : (s.setMem m).pc = s.pc := rfl
@[simp] theorem State.setMem_i (s : State) (m : Memory) : (s.setMem m).i = s.i := rfl
@[simp] theorem State.setMem_stack (s : State) (m : Memory) : (s.setMem m).stack = s.stack := rfl
@[simp] theorem State.setMem_sp (s : State) (m : Memory) : (s.setMem m).sp = s.sp := rfl
@[simp] theorem State.setMem_dt (s : State) (m : Memory) : (s.setMem m).dt = s.dt := rfl
@[simp] theorem State.setMem_st (s : State) (m : Memory) : (s.setMem m).st = s.st := rfl
@[simp] theorem State.setMem_key (s : State) (m : Memory) : (s.setMem m).key = s.key := rfl
@[simp] theorem State.setMem_fb (s : State) (m : Memory) : (s.setMem m).fb = s.fb := rfl
@[simp] theorem State.setMem_ir (s : State) (m : Memory) : (s.setMem m).ir = s.ir := rfl
@[simp] theorem State.setMem_mem (s : State) (m : Memory) : (s.setMem m).mem = m := rfl
@[simp] theorem State.setMem_status (s : State) (m : Memory) : (s.setMem m).status = s.status := rfl
@[simp] theorem State.setMem_rndIn (s : State) (m : Memory) : (s.setMem m).rndIn = s.rndIn := rfl
@[simp] theorem State.setMem_draws (s : State) (m : Memory) : (s.setMem m).draws = s.draws := rfl

/-! ### setStatus -/

@[simp] theorem State.setStatus_v (s : State) (c : Status) : (s.setStatus c).v = s.v := rfl
@[simp] theorem State.setStatus_pc (s : State) (c : Status) : (s.setStatus c).pc = s.pc := rfl
@[simp] theorem State.setStatus_i (s : State) (c : Status) : (s.setStatus c).i = s.i := rfl
@[simp] theorem State.setStatus_stack (s : State) (c : Status) : (s.setStatus c).stack = s.stack := rfl
@[simp] theorem State.setStatus_sp (s : State) (c : Status) : (s.setStatus c).sp = s.sp := rfl
@[simp] theorem State.setStatus_dt (s : State) (c : Status) : (s.setStatus c).dt = s.dt := rfl
@[simp] theorem State.setStatus_st (s : State) (c : Status) : (s.setStatus c).st = s.st := rfl
@[simp] theorem State.setStatus_key (s : State) (c : Status) : (s.setStatus c).key = s.key := rfl
@[simp] theorem State.setStatus_fb (s : State) (c : Status) : (s.setStatus c).fb = s.fb := rfl
@[simp] theorem State.setStatus_ir (s : State) (c : Status) : (s.setStatus c).ir = s.ir := rfl
@[simp] theorem State.setStatus_mem (s : State) (c : Status) : (s.setStatus c).mem = s.mem := rfl
@[simp] theorem State.setStatus_status (s : State) (c : Status) : (s.setStatus c).status = c := rfl
@[simp] theorem State.setStatus_rndIn (s : State) (c : Status) : (s.setStatus c).rndIn = s.rndIn := rfl
@[simp] theorem State.setStatus_draws (s : State) (c : Status) : (s.setStatus c).draws = s.draws := rfl

/-! ### drawn -/

@[simp] theorem State.drawn_v (s : State) : (s.drawn).v = s.v := rfl
@[simp] theorem State.drawn_pc (s : State) : (s.drawn).pc = s.pc := rfl
@[simp] theorem State.drawn_i (s : State) : (s.drawn).i = s.i := rfl
@[simp] theorem State.drawn_stack (s : State) : (s.drawn).stack = s.stack := rfl
@[simp] theorem State.drawn_sp (s : State) : (s.drawn).sp = s.sp := rfl
@[simp] theorem State.drawn_dt (s : State) : (s.drawn).dt = s.dt := rfl
@[simp] theorem State.drawn_st (s : State) : (s.drawn).st = s.st := rfl
@[simp] theorem State.drawn_key (s : State) : (s.drawn).key = s.key := rfl
@[simp] theorem State.drawn_fb (s : State) : (s.drawn).fb = s.fb := rfl
@[simp] theorem State.drawn_ir (s : State) : (s.drawn).ir = s.ir := rfl
@[simp] theorem State.drawn_mem (s : State) : (s.drawn).mem = s.mem := rfl
@[simp] theorem State.drawn_status (s : State) : (s.drawn).status = s.status := rfl
@[simp] theorem State.drawn_rndIn (s : State) : (s.drawn).rndIn = s.rndIn.tail := rfl
@[simp] theorem State.drawn_draws (s : State) : (s.drawn).draws = s.draws + 1 := rfl

/-! ### tick -/

@[simp] theorem State.tick_v (s : State) : (s.tick).v = s.v := rfl
@[simp] theorem State.tick_pc (s : State) : (s.tick).pc = s.pc := rfl
@[simp] theorem State.tick_i (s : State) : (s.tick).i = s.i := rfl
@[simp] theorem State.tick_stack (s : State) : (s.tick).stack = s.stack := rfl
@[simp] theorem State.tick_sp (s : State) : (s.tick).sp = s.sp := rfl
@[simp] theorem State.tick_dt (s : State) : (s.tick).dt = countDown s.dt := rfl
@[simp] theorem State.tick_st (s : State) : (s.tick).st = countDown s.st := rfl
@[simp] theorem State.tick_key (s : State) : (s.tick).key = s.key := rfl
@[simp] theorem State.tick_fb (s : State) : (s.tick).fb = s.fb := rfl
@[simp] theorem State.tick_ir (s : State) : (s.tick).ir = s.ir := rfl
@[simp] theorem State.tick_mem (s : State) : (s.tick).mem = s.mem := rfl
@[simp] theorem State.tick_status (s : State) : (s.tick).status = s.status := rfl
@[simp] theorem State.tick_rndIn (s : State) : (s.tick).rndIn = s.rndIn := rfl
@[simp] theorem State.tick_draws (s : State) : (s.tick).draws = s.draws := rfl

/-! ### fetch -/

@[simp] theorem State.fetch_v (s : State) : (s.fetch).v = s.v := rfl
@[simp] theorem State.fetch_pc (s : State) : (s.fetch).pc = s.pc + 2#16 := rfl
@[simp] theorem State.fetch_i (s : State) : (s.fetch).i = s.i := rfl
@[simp] theorem State.fetch_stack (s : State) : (s.fetch).stack = s.stack := rfl
@[simp] theorem State.fetch_sp (s : State) : (s.fetch).sp = s.sp := rfl
@[simp] theorem State.fetch_dt (s : State) : (s.fetch).dt = s.dt := rfl
@[simp] theorem State.fetch_st (s : State) : (s.fetch).st = s.st := rfl
@[simp] theorem State.fetch_key (s : State) : (s.fetch).key = s.key := rfl
@[simp] theorem State.fetch_fb (s : State) : (s.fetch).fb = s.fb := rfl
@[simp] theorem State.fetch_ir (s : State) : (s.fetch).ir = s.wordAt s.pc := rfl
@[simp] theorem State.fetch_mem (s : State) : (s.fetch).mem = s.mem := rfl
@[simp] theorem State.fetch_status (s : State) : (s.fetch).status = s.status := rfl
@[simp] theorem State.fetch_rndIn (s : State) : (s.fetch).rndIn = s.rndIn := rfl
@[simp] theorem State.fetch_draws (s : State) : (s.fetch).draws = s.draws := rfl

/-! ### Registers -/

@[simp] theorem State.reg_setReg_same (s : State) (r : Nibble) (b : Byte) : (s.setReg r b).reg r = b := by
  simp [State.reg]

theorem State.reg_setReg (s : State) (r q : Nibble) (b : Byte) :
    (s.setReg r b).reg q = if q = r then b else s.reg q := by
  by_cases h : q = r
  · subst h; simp
  · have hn : r.toNat ≠ q.toNat := fun e => h (BitVec.eq_of_toNat_eq e.symm)
    simp [State.reg, hn, h]

theorem State.reg_setReg_of_ne (s : State) {r q : Nibble} (b : Byte) (h : q ≠ r) :
    (s.setReg r b).reg q = s.reg q := by
  simp [State.reg_setReg, h]

/-- Two states whose registers read alike have the same register file. -/
theorem State.v_ext {s t : State} (h : ∀ r, s.reg r = t.reg r) : s.v = t.v := by
  apply Vector.ext
  intro k hk
  simpa [State.reg, Nat.mod_eq_of_lt hk] using h (BitVec.ofNat 4 k)

@[simp] theorem State.reg_setStackAt (s : State) (p : Nibble) (w : Word) (q : Nibble) : (s.setStackAt p w).reg q = s.reg q := rfl
@[simp] theorem State.reg_setPc (s : State) (a : Word) (q : Nibble) : (s.setPc a).reg q = s.reg q := rfl
@[simp] theorem State.reg_setI (s : State) (a : Word) (q : Nibble) : (s.setI a).reg q = s.reg q := rfl
@[simp] theorem State.reg_setSp (s : State) (p : Nibble) (q : Nibble) : (s.setSp p).reg q = s.reg q := rfl
@[simp] theorem State.reg_setDt (s : State) (b : Byte) (q : Nibble) : (s.setDt b).reg q = s.reg q := rfl
@[simp] theorem State.reg_setSt (s : State) (b : Byte) (q : Nibble) : (s.setSt b).reg q = s.reg q := rfl
@[simp] theorem State.reg_setFb (s : State) (p : BitVec 2048) (q : Nibble) : (s.setFb p).reg q = s.reg q := rfl
@[simp] theorem State.reg_setKeys (s : State) (k : BitVec 16) (q : Nibble) : (s.setKeys k).reg q = s.reg q := rfl
@[simp] theorem State.reg_setMem (s : State) (m : Memory) (q : Nibble) : (s.setMem m).reg q = s.reg q := rfl
@[simp] theorem State.reg_setStatus (s : State) (c : Status) (q : Nibble) : (s.setStatus c).reg q = s.reg q := rfl
@[simp] theorem State.reg_drawn (s : State) (q : Nibble) : (s.drawn).reg q = s.reg q := rfl
@[simp] theorem State.reg_tick (s : State) (q : Nibble) : (s.tick).reg q = s.reg q := rfl
@[simp] theorem State.reg_fetch (s : State) (q : Nibble) : (s.fetch).reg q = s.reg q := rfl

/-! ### The stack -/

@[simp] theorem State.stackAt_setStackAt_same (s : State) (p : Nibble) (w : Word) :
    (s.setStackAt p w).stackAt p = w := by
  simp [State.stackAt]

theorem State.stackAt_setStackAt (s : State) (p q : Nibble) (w : Word) :
    (s.setStackAt p w).stackAt q = if q = p then w else s.stackAt q := by
  by_cases h : q = p
  · subst h; simp
  · have hn : p.toNat ≠ q.toNat := fun e => h (BitVec.eq_of_toNat_eq e.symm)
    simp [State.stackAt, hn, h]

@[simp] theorem State.stackAt_setReg (s : State) (r : Nibble) (b : Byte) (q : Nibble) : (s.setReg r b).stackAt q = s.stackAt q := rfl
@[simp] theorem State.stackAt_setPc (s : State) (a : Word) (q : Nibble) : (s.setPc a).stackAt q = s.stackAt q := rfl
@[simp] theorem State.stackAt_setI (s : State) (a : Word) (q : Nibble) : (s.setI a).stackAt q = s.stackAt q := rfl
@[simp] theorem State.stackAt_setSp (s : State) (p : Nibble) (q : Nibble) : (s.setSp p).stackAt q = s.stackAt q := rfl
@[simp] theorem State.stackAt_setDt (s : State) (b : Byte) (q : Nibble) : (s.setDt b).stackAt q = s.stackAt q := rfl
@[simp] theorem State.stackAt_setSt (s : State) (b : Byte) (q : Nibble) : (s.setSt b).stackAt q = s.stackAt q := rfl
@[simp] theorem State.stackAt_setFb (s : State) (p : BitVec 2048) (q : Nibble) : (s.setFb p).stackAt q = s.stackAt q := rfl
@[simp] theorem State.stackAt_setKeys (s : State) (k : BitVec 16) (q : Nibble) : (s.setKeys k).stackAt q = s.stackAt q := rfl
@[simp] theorem State.stackAt_setMem (s : State) (m : Memory) (q : Nibble) : (s.setMem m).stackAt q = s.stackAt q := rfl
@[simp] theorem State.stackAt_setStatus (s : State) (c : Status) (q : Nibble) : (s.setStatus c).stackAt q = s.stackAt q := rfl
@[simp] theorem State.stackAt_drawn (s : State) (q : Nibble) : (s.drawn).stackAt q = s.stackAt q := rfl
@[simp] theorem State.stackAt_tick (s : State) (q : Nibble) : (s.tick).stackAt q = s.stackAt q := rfl
@[simp] theorem State.stackAt_fetch (s : State) (q : Nibble) : (s.fetch).stackAt q = s.stackAt q := rfl

/-! ### Memory reads over the updates that are not stores -/

@[simp] theorem State.memRead_setReg (s : State) (r : Nibble) (b : Byte) (q : Nat) : (s.setReg r b).memRead q = s.memRead q := rfl
@[simp] theorem State.memRead_setStackAt (s : State) (p : Nibble) (w : Word) (q : Nat) : (s.setStackAt p w).memRead q = s.memRead q := rfl
@[simp] theorem State.memRead_setPc (s : State) (a : Word) (q : Nat) : (s.setPc a).memRead q = s.memRead q := rfl
@[simp] theorem State.memRead_setI (s : State) (a : Word) (q : Nat) : (s.setI a).memRead q = s.memRead q := rfl
@[simp] theorem State.memRead_setSp (s : State) (p : Nibble) (q : Nat) : (s.setSp p).memRead q = s.memRead q := rfl
@[simp] theorem State.memRead_setDt (s : State) (b : Byte) (q : Nat) : (s.setDt b).memRead q = s.memRead q := rfl
@[simp] theorem State.memRead_setSt (s : State) (b : Byte) (q : Nat) : (s.setSt b).memRead q = s.memRead q := rfl
@[simp] theorem State.memRead_setFb (s : State) (p : BitVec 2048) (q : Nat) : (s.setFb p).memRead q = s.memRead q := rfl
@[simp] theorem State.memRead_setKeys (s : State) (k : BitVec 16) (q : Nat) : (s.setKeys k).memRead q = s.memRead q := rfl
@[simp] theorem State.memRead_setStatus (s : State) (c : Status) (q : Nat) : (s.setStatus c).memRead q = s.memRead q := rfl
@[simp] theorem State.memRead_drawn (s : State) (q : Nat) : (s.drawn).memRead q = s.memRead q := rfl
@[simp] theorem State.memRead_tick (s : State) (q : Nat) : (s.tick).memRead q = s.memRead q := rfl
@[simp] theorem State.memRead_fetch (s : State) (q : Nat) : (s.fetch).memRead q = s.memRead q := rfl

end Sys2Proof.Machine
end

