-- ==== Sys2Proof/Laws/Memory.lean ====
section
/-! SUPPORT. The laws of memory: what a read sees after a write, and that every write keeps the canonical form. -/

namespace Sys2Proof.Machine

/-! ### Listed cells -/

theorem Memory.listed?_insert (m : Memory) (a q : Nat) (b : Byte) :
    Memory.listed? (Memory.insert m a b) q = if q = a then some b else Memory.listed? m q := by
  induction m with
  | nil => simp [Memory.insert, Memory.listed?, eq_comm]
  | cons c m ih =>
    simp only [Memory.insert]
    split
    · simp only [Memory.listed?]
      by_cases hq : q = a
      · simp [hq]
      · simp [hq, Ne.symm hq]
    · split
      · rename_i _ hc
        subst hc
        simp only [Memory.listed?]
        by_cases hq : q = c.1
        · simp [hq]
        · simp [hq, Ne.symm hq]
      · rename_i _ hc
        simp only [Memory.listed?, ih]
        by_cases hq : q = a
        · subst hq; simp [Ne.symm hc]
        · simp [hq]

/-- A cell below the bound from which the list rises is not listed. -/
theorem Memory.listed?_eq_none (m : Memory) (lo q : Nat) (h : Memory.risesFrom lo m = true) (hq : q < lo) :
    Memory.listed? m q = none := by
  induction m generalizing lo with
  | nil => rfl
  | cons c m ih =>
    simp only [Memory.risesFrom, Bool.and_eq_true, decide_eq_true_eq] at h
    have hc : c.1 ≠ q := by omega
    simp [Memory.listed?, hc, ih _ h.2 (by omega)]

theorem Memory.listed?_erase (m : Memory) (a q : Nat) :
    Memory.listed? (Memory.erase m a) q = if q = a then none else Memory.listed? m q := by
  induction m with
  | nil => simp [Memory.erase, Memory.listed?]
  | cons c m ih =>
    simp only [Memory.erase]
    split
    · rename_i hc
      subst hc
      by_cases hq : q = c.1
      · rw [ih]; simp [hq]
      · simp [ih, Memory.listed?, hq, Ne.symm hq]
    · rename_i hc
      simp only [Memory.listed?, ih]
      by_cases hq : q = a
      · subst hq; simp [hc]
      · simp [hq]

/-! ### The canonical form -/

theorem Memory.risesFrom_mono (m : Memory) {lo lo' : Nat} (hle : lo ≤ lo') (h : Memory.risesFrom lo' m = true) :
    Memory.risesFrom lo m = true := by
  cases m with
  | nil => rfl
  | cons c m =>
    simp only [Memory.risesFrom, Bool.and_eq_true, decide_eq_true_eq] at *
    exact ⟨by omega, h.2⟩

theorem Memory.risesFrom_insert (m : Memory) (a : Nat) (b : Byte) (lo : Nat) (ha : lo ≤ a)
    (h : Memory.risesFrom lo m = true) : Memory.risesFrom lo (Memory.insert m a b) = true := by
  induction m generalizing lo with
  | nil => simpa [Memory.insert, Memory.risesFrom] using ha
  | cons c m ih =>
    simp only [Memory.risesFrom, Bool.and_eq_true, decide_eq_true_eq] at h
    simp only [Memory.insert]
    split
    · simp only [Memory.risesFrom, Bool.and_eq_true, decide_eq_true_eq]
      exact ⟨ha, by omega, h.2⟩
    · split
      · rename_i _ hc
        subst hc
        simp only [Memory.risesFrom, Bool.and_eq_true, decide_eq_true_eq]
        exact ⟨ha, h.2⟩
      · simp only [Memory.risesFrom, Bool.and_eq_true, decide_eq_true_eq]
        exact ⟨h.1, ih _ (by omega) h.2⟩

theorem Memory.risesFrom_erase (m : Memory) (a lo : Nat) (h : Memory.risesFrom lo m = true) :
    Memory.risesFrom lo (Memory.erase m a) = true := by
  induction m generalizing lo with
  | nil => rfl
  | cons c m ih =>
    simp only [Memory.risesFrom, Bool.and_eq_true, decide_eq_true_eq] at h
    simp only [Memory.erase]
    split
    · exact ih _ (Memory.risesFrom_mono m (by omega) h.2)
    · simp only [Memory.risesFrom, Bool.and_eq_true, decide_eq_true_eq]
      exact ⟨h.1, ih _ h.2⟩

theorem Memory.mem_insert {m : Memory} {a : Nat} {b : Byte} {c : Host.Cell} (h : c ∈ Memory.insert m a b) :
    c = (a, b) ∨ c ∈ m := by
  induction m with
  | nil => simpa [Memory.insert] using h
  | cons d m ih =>
    simp only [Memory.insert] at h
    split at h
    · simpa using h
    · split at h
      · rcases List.mem_cons.mp h with h | h
        · exact .inl h
        · exact .inr (List.mem_cons_of_mem _ h)
      · rcases List.mem_cons.mp h with h | h
        · exact .inr (h ▸ List.mem_cons_self)
        · exact (ih h).imp_right (List.mem_cons_of_mem _)

theorem Memory.mem_erase {m : Memory} {a : Nat} {c : Host.Cell} (h : c ∈ Memory.erase m a) : c ∈ m := by
  induction m with
  | nil => exact h
  | cons d m ih =>
    simp only [Memory.erase] at h
    split at h
    · exact List.mem_cons_of_mem _ (ih h)
    · rcases List.mem_cons.mp h with h | h
      · exact h ▸ List.mem_cons_self
      · exact List.mem_cons_of_mem _ (ih h)

theorem Memory.wf_iff (m : Memory) :
    m.wf = true ↔ Memory.risesFrom 0 m = true ∧ ∀ c ∈ m, Memory.cellOk c = true := by
  simp [Memory.wf, List.all_eq_true]

theorem Memory.wf_nil : Memory.wf [] = true := rfl

/-- Every store keeps the canonical form. -/
theorem Memory.wf_write (m : Memory) (a : Nat) (b : Byte) (ha : a < Config.memSize) (h : m.wf = true) :
    (m.write a b).wf = true := by
  obtain ⟨hr, hc⟩ := (Memory.wf_iff m).mp h
  rw [Memory.write, Memory.wf_iff]
  split
  · exact ⟨Memory.risesFrom_erase m a 0 hr, fun c h => hc c (Memory.mem_erase h)⟩
  · rename_i hb
    refine ⟨Memory.risesFrom_insert m a b 0 (Nat.zero_le a) hr, fun c h => ?_⟩
    rcases Memory.mem_insert h with rfl | h
    · simp [Memory.cellOk, ha, hb]
    · exact hc c h

/-! ### Reading after writing -/

/-- A read sees the last byte written to its cell, and a write leaves every other cell alone (R73 a). -/
theorem Memory.read_write (m : Memory) (a q : Nat) (b : Byte) :
    (m.write a b).read q = if q = a then b else m.read q := by
  rw [Memory.write]
  split
  · rename_i hb
    simp only [Memory.read, Memory.listed?_erase]
    by_cases hq : q = a
    · subst hq; simp [Memory.unlisted, hb]
    · simp [hq]
  · simp only [Memory.read, Memory.listed?_insert]
    by_cases hq : q = a
    · simp [hq]
    · simp [hq]

/-- Canonical memories that list the same values are the same data. -/
theorem Memory.ext_of_listed? (m n : Memory) (lo : Nat) (hm : Memory.risesFrom lo m = true)
    (hn : Memory.risesFrom lo n = true) (h : ∀ a, Memory.listed? m a = Memory.listed? n a) : m = n := by
  induction m generalizing n lo with
  | nil =>
    cases n with
    | nil => rfl
    | cons d n => have := h d.1; simp [Memory.listed?] at this
  | cons c m ih =>
    cases n with
    | nil => have := h c.1; simp [Memory.listed?] at this
    | cons d n =>
      simp only [Memory.risesFrom, Bool.and_eq_true, decide_eq_true_eq] at hm hn
      have hcd : c.1 = d.1 := by
        rcases Nat.lt_trichotomy c.1 d.1 with hl | hl | hl
        · have := h c.1
          simp [Memory.listed?, Nat.ne_of_gt hl, Memory.listed?_eq_none n _ _ hn.2 (by omega : c.1 < d.1 + 1)] at this
        · exact hl
        · have := h d.1
          simp [Memory.listed?, Nat.ne_of_gt hl, Memory.listed?_eq_none m _ _ hm.2 (by omega : d.1 < c.1 + 1)] at this
      have hv : c.2 = d.2 := by
        have := h c.1
        simpa [Memory.listed?, hcd] using this
      have hrest : m = n := by
        refine ih n (c.1 + 1) hm.2 (hcd ▸ hn.2) fun a => ?_
        by_cases ha : a = c.1
        · rw [Memory.listed?_eq_none m _ _ hm.2 (by omega), Memory.listed?_eq_none n _ _ (hcd ▸ hn.2) (by omega)]
        · have := h a
          simpa [Memory.listed?, Ne.symm ha, hcd ▸ Ne.symm ha] using this
      exact by rw [hrest, Prod.ext hcd hv]

/-! ### Memory through the state's own reads and writes -/

theorem cellOf_lt (a : Nat) : cellOf a < Config.memSize := Nat.mod_lt _ (by decide)

theorem cellOf_of_lt {a : Nat} (h : a < Config.memSize) : cellOf a = a := Nat.mod_eq_of_lt h

theorem State.mem_memWrite (s : State) (a : Nat) (b : Byte) :
    (s.memWrite a b).mem = s.mem.write (cellOf a) b := rfl

theorem State.memWrite_wf (s : State) (a : Nat) (b : Byte) (h : s.mem.wf = true) :
    (s.memWrite a b).mem.wf = true := Memory.wf_write _ _ _ (cellOf_lt a) h

theorem State.read_memWrite (s : State) (a q : Nat) (b : Byte) :
    (s.memWrite a b).mem.read q = if q = cellOf a then b else s.mem.read q :=
  Memory.read_write _ _ _ _

theorem State.memRead_memWrite (s : State) (a q : Nat) (b : Byte) :
    (s.memWrite a b).memRead q = if cellOf q = cellOf a then b else s.memRead q :=
  Memory.read_write _ _ _ _

@[simp] theorem State.reg_memWrite (s : State) (a : Nat) (b : Byte) (r : Nibble) :
    (s.memWrite a b).reg r = s.reg r := rfl

@[simp] theorem State.stackAt_memWrite (s : State) (a : Nat) (b : Byte) (p : Nibble) :
    (s.memWrite a b).stackAt p = s.stackAt p := rfl

/-- A store changes memory and nothing else. -/
theorem State.memWrite_frame (s : State) (a : Nat) (b : Byte) :
    s.memWrite a b = { s with mem := (s.memWrite a b).mem } := rfl

end Sys2Proof.Machine
end

