-- ==== Sys2Proof/Laws/Blocks.lean ====
section
/-! SUPPORT. What the block transfers and the loader's byte copy do, said once (R194, R195, R263). -/

namespace Sys2Proof.Machine

/-! ### Addresses -/

/-- Two offsets less than 4096 apart from one base are two cells (R78). -/
theorem cellOf_add_inj {a j k : Nat} (hj : j < Config.memSize) (hk : k < Config.memSize)
    (h : cellOf (a + j) = cellOf (a + k)) : j = k := by
  simp only [cellOf, Config.memSize] at *
  omega

theorem nibble_ofNat_inj {j k : Nat} (hj : j < 16) (hk : k < 16) (h : BitVec.ofNat 4 j = BitVec.ofNat 4 k) :
    j = k := by
  have := congrArg BitVec.toNat h
  simpa [Nat.mod_eq_of_lt hj, Nat.mod_eq_of_lt hk] using this

/-! ### Block store -/

theorem State.storeBlock_frame (s : State) (n : Nat) :
    (List.range n).foldl State.storeOne s = { s with mem := ((List.range n).foldl State.storeOne s).mem } := by
  induction n with
  | zero => rfl
  | succ n ih =>
    rw [List.range_succ, List.foldl_append]
    generalize (List.range n).foldl State.storeOne s = t at *
    rw [ih]
    rfl

/-- After storing registers 0 to `n - 1` at `I`, ascending. -/
theorem State.storeBlock_read (s : State) (n : Nat) (hn : n ≤ 16) :
    (∀ k < n, ((List.range n).foldl State.storeOne s).mem.read (cellOf (s.ea k)) = s.reg (BitVec.ofNat 4 k)) ∧
    (∀ q, (∀ k < n, q ≠ cellOf (s.ea k)) →
      ((List.range n).foldl State.storeOne s).mem.read q = s.mem.read q) := by
  induction n with
  | zero => simp
  | succ n ih =>
    obtain ⟨ih1, ih2⟩ := ih (by omega)
    have hf := State.storeBlock_frame s n
    rw [List.range_succ, List.foldl_append]
    generalize (List.range n).foldl State.storeOne s = t at *
    have he : ∀ k, t.ea k = s.ea k := by rw [hf]; intro k; rfl
    have hr : ∀ r, t.reg r = s.reg r := by rw [hf]; intro k; rfl
    simp only [List.foldl_cons, List.foldl_nil, State.storeOne, State.read_memWrite, he, hr]
    constructor
    · intro k hk
      by_cases hkn : k = n
      · simp [hkn]
      · have hne : cellOf (s.ea k) ≠ cellOf (s.ea n) := fun h =>
          hkn (cellOf_add_inj (by simp only [Config.memSize]; omega) (by simp only [Config.memSize]; omega) h)
        simp [hne, ih1 k (by omega)]
    · intro q hq
      simp [hq n (by omega), ih2 q fun k hk => hq k (by omega)]

theorem State.storeBlock_wf (s : State) (n : Nat) (h : s.mem.wf = true) :
    ((List.range n).foldl State.storeOne s).mem.wf = true := by
  induction n with
  | zero => exact h
  | succ n ih =>
    rw [List.range_succ, List.foldl_append]
    exact State.memWrite_wf _ _ _ ih

/-! ### Block load -/

theorem State.loadBlock_frame (s : State) (n : Nat) :
    (List.range n).foldl State.loadOne s = { s with v := ((List.range n).foldl State.loadOne s).v } := by
  induction n with
  | zero => rfl
  | succ n ih =>
    rw [List.range_succ, List.foldl_append]
    generalize (List.range n).foldl State.loadOne s = t at *
    rw [ih]
    rfl

/-- After loading registers 0 to `n - 1` from `I`, ascending. -/
theorem State.loadBlock_reg (s : State) (n : Nat) (hn : n ≤ 16) (r : Nibble) :
    ((List.range n).foldl State.loadOne s).reg r = if r.toNat < n then s.memRead (s.ea r.toNat) else s.reg r := by
  induction n with
  | zero => simp
  | succ n ih =>
    have ih := ih (by omega)
    have hf := State.loadBlock_frame s n
    rw [List.range_succ, List.foldl_append]
    generalize (List.range n).foldl State.loadOne s = t at *
    have hm : t.memRead (t.ea n) = s.memRead (s.ea n) := by rw [hf]; rfl
    simp only [List.foldl_cons, List.foldl_nil, State.loadOne, State.reg_setReg, hm, ih]
    by_cases hr : r.toNat = n
    · have : r = BitVec.ofNat 4 n := by rw [← hr, BitVec.ofNat_toNat, BitVec.setWidth_eq]
      rw [if_pos this, if_pos (by omega), hr]
    · have : r ≠ BitVec.ofNat 4 n := fun h => hr (by rw [h]; simp; omega)
      rw [if_neg this]
      by_cases h2 : r.toNat < n
      · rw [if_pos h2, if_pos (by omega)]
      · rw [if_neg h2, if_neg (by omega)]

/-! ### The loader's byte copy -/

theorem State.writeBytes_frame (s : State) (a : Nat) (bs : List Byte) :
    s.writeBytes a bs = { s with mem := (s.writeBytes a bs).mem } := by
  induction bs generalizing s a with
  | nil => rfl
  | cons b bs ih =>
    rw [State.writeBytes, ih]
    rfl

theorem State.writeBytes_wf (s : State) (a : Nat) (bs : List Byte) (h : s.mem.wf = true) :
    (s.writeBytes a bs).mem.wf = true := by
  induction bs generalizing s a with
  | nil => exact h
  | cons b bs ih => exact ih _ _ (State.memWrite_wf _ _ _ h)

/-- A byte copy that stays inside memory: cell `a + k` gets byte `k`, every other cell keeps its byte. -/
theorem State.writeBytes_read (s : State) (a : Nat) (bs : List Byte) (h : a + bs.length ≤ Config.memSize) (q : Nat) :
    (s.writeBytes a bs).mem.read q =
      if a ≤ q then (bs[q - a]?).getD (s.mem.read q) else s.mem.read q := by
  induction bs generalizing s a with
  | nil => simp [State.writeBytes]
  | cons b bs ih =>
    simp only [List.length_cons] at h
    have hc : cellOf a = a := cellOf_of_lt (by omega)
    rw [State.writeBytes, ih _ _ (by omega), State.read_memWrite, hc]
    by_cases hq : q = a
    · subst hq; simp
    · by_cases hlt : a ≤ q
      · have h1 : a + 1 ≤ q := by omega
        have h2 : q - a = (q - (a + 1)) + 1 := by omega
        rw [if_pos h1, if_pos hlt, if_neg hq, h2, List.getElem?_cons_succ]
      · rw [if_neg (by omega), if_neg hlt, if_neg hq]

end Sys2Proof.Machine
end

