-- ==== Sys2Proof/Laws/Decode.lean ====
section
/-! SUPPORT. Words, bytes and fields as numbers; the fields of an encoded word, and a word from its fields (R91,
R92). -/

namespace Sys2Proof

/-! ### As numbers -/

theorem toNat_append_eq {m n : Nat} (a : BitVec m) (b : BitVec n) : (a ++ b).toNat = a.toNat * 2 ^ n + b.toNat := by
  rw [BitVec.toNat_append, ← Nat.shiftLeft_add_eq_or_of_lt b.isLt, Nat.shiftLeft_eq]

theorem toNat_encodeA (c : Nibble) (a : Addr) : (encodeA c a).toNat = c.toNat * 4096 + a.toNat :=
  toNat_append_eq c a

theorem toNat_byteOf (a b : Nibble) : ((a ++ b : Byte)).toNat = a.toNat * 16 + b.toNat := toNat_append_eq a b

theorem toNat_wordOfBytes (hi lo : Byte) : (wordOfBytes hi lo).toNat = hi.toNat * 256 + lo.toNat :=
  toNat_append_eq hi lo

theorem toNat_encodeXK (c x : Nibble) (k : Byte) :
    (encodeXK c x k).toNat = (c.toNat * 16 + x.toNat) * 256 + k.toNat := by
  rw [← toNat_byteOf]
  exact toNat_wordOfBytes _ k

theorem toNat_encodeXYN (c x y n : Nibble) :
    (encodeXYN c x y n).toNat = (c.toNat * 16 + x.toNat) * 256 + (y.toNat * 16 + n.toNat) := by
  rw [← toNat_byteOf y n]
  exact toNat_encodeXK c x _

theorem toNat_fieldClass (w : Word) : (fieldClass w).toNat = w.toNat / 4096 := by
  simp only [fieldClass, BitVec.extractLsb'_toNat, Nat.shiftRight_eq_div_pow]
  have := w.isLt
  omega

theorem toNat_fieldX (w : Word) : (fieldX w).toNat = w.toNat / 256 % 16 := by
  simp [fieldX, BitVec.extractLsb'_toNat, Nat.shiftRight_eq_div_pow]

theorem toNat_fieldY (w : Word) : (fieldY w).toNat = w.toNat / 16 % 16 := by
  simp [fieldY, BitVec.extractLsb'_toNat, Nat.shiftRight_eq_div_pow]

theorem toNat_fieldN (w : Word) : (fieldN w).toNat = w.toNat % 16 := by
  simp [fieldN, BitVec.extractLsb'_toNat]

theorem toNat_fieldKK (w : Word) : (fieldKK w).toNat = w.toNat % 256 := by
  simp [fieldKK, BitVec.extractLsb'_toNat]

theorem toNat_fieldNNN (w : Word) : (fieldNNN w).toNat = w.toNat % 4096 := by
  simp [fieldNNN, BitVec.extractLsb'_toNat]

theorem toNat_highByte (w : Word) : (highByte w).toNat = w.toNat / 256 := by
  simp only [highByte, BitVec.extractLsb'_toNat, Nat.shiftRight_eq_div_pow]
  have := w.isLt
  omega

theorem toNat_lowByte (w : Word) : (lowByte w).toNat = w.toNat % 256 := by
  simp [lowByte, BitVec.extractLsb'_toNat]

/-! ### Format A -/

@[simp] theorem fieldClass_encodeA (c : Nibble) (a : Addr) : fieldClass (encodeA c a) = c := by
  apply BitVec.eq_of_toNat_eq; rw [toNat_fieldClass, toNat_encodeA]; omega

@[simp] theorem fieldNNN_encodeA (c : Nibble) (a : Addr) : fieldNNN (encodeA c a) = a := by
  apply BitVec.eq_of_toNat_eq; rw [toNat_fieldNNN, toNat_encodeA]; omega

theorem encodeA_fields (w : Word) : encodeA (fieldClass w) (fieldNNN w) = w := by
  apply BitVec.eq_of_toNat_eq; rw [toNat_encodeA, toNat_fieldClass, toNat_fieldNNN]; omega

/-! ### Formats XK and X -/

@[simp] theorem fieldClass_encodeXK (c x : Nibble) (k : Byte) : fieldClass (encodeXK c x k) = c := by
  apply BitVec.eq_of_toNat_eq; rw [toNat_fieldClass, toNat_encodeXK]; omega

@[simp] theorem fieldX_encodeXK (c x : Nibble) (k : Byte) : fieldX (encodeXK c x k) = x := by
  apply BitVec.eq_of_toNat_eq; rw [toNat_fieldX, toNat_encodeXK]; omega

@[simp] theorem fieldKK_encodeXK (c x : Nibble) (k : Byte) : fieldKK (encodeXK c x k) = k := by
  apply BitVec.eq_of_toNat_eq; rw [toNat_fieldKK, toNat_encodeXK]; omega

theorem encodeXK_fields (w : Word) : encodeXK (fieldClass w) (fieldX w) (fieldKK w) = w := by
  apply BitVec.eq_of_toNat_eq; rw [toNat_encodeXK, toNat_fieldClass, toNat_fieldX, toNat_fieldKK]; omega

/-! ### Formats XY and XYN -/

@[simp] theorem fieldClass_encodeXYN (c x y n : Nibble) : fieldClass (encodeXYN c x y n) = c := by
  apply BitVec.eq_of_toNat_eq; rw [toNat_fieldClass, toNat_encodeXYN]; omega

@[simp] theorem fieldX_encodeXYN (c x y n : Nibble) : fieldX (encodeXYN c x y n) = x := by
  apply BitVec.eq_of_toNat_eq; rw [toNat_fieldX, toNat_encodeXYN]; omega

@[simp] theorem fieldY_encodeXYN (c x y n : Nibble) : fieldY (encodeXYN c x y n) = y := by
  apply BitVec.eq_of_toNat_eq; rw [toNat_fieldY, toNat_encodeXYN]; omega

@[simp] theorem fieldN_encodeXYN (c x y n : Nibble) : fieldN (encodeXYN c x y n) = n := by
  apply BitVec.eq_of_toNat_eq; rw [toNat_fieldN, toNat_encodeXYN]; omega

theorem encodeXYN_fields (w : Word) : encodeXYN (fieldClass w) (fieldX w) (fieldY w) (fieldN w) = w := by
  apply BitVec.eq_of_toNat_eq
  rw [toNat_encodeXYN, toNat_fieldClass, toNat_fieldX, toNat_fieldY, toNat_fieldN]
  omega

/-! ### Bytes -/

@[simp] theorem wordOfBytes_high_low (w : Word) : wordOfBytes (highByte w) (lowByte w) = w := by
  apply BitVec.eq_of_toNat_eq; rw [toNat_wordOfBytes, toNat_highByte, toNat_lowByte]; omega

/-! ### Bits, and the three masks of R94 -/

theorem getLsbD_encodeA (c : Nibble) (a : Addr) (j : Nat) :
    (encodeA c a).getLsbD j = if j < 12 then a.getLsbD j else c.getLsbD (j - 12) := BitVec.getLsbD_append

theorem getLsbD_wordOfBytes (a b : Byte) (j : Nat) :
    (wordOfBytes a b).getLsbD j = if j < 8 then b.getLsbD j else a.getLsbD (j - 8) := BitVec.getLsbD_append

theorem getLsbD_byteOf (a b : Nibble) (j : Nat) :
    (a ++ b : Byte).getLsbD j = if j < 4 then b.getLsbD j else a.getLsbD (j - 4) := BitVec.getLsbD_append

theorem and_F000 (w : Word) : w &&& 0xF000#16 = encodeA (fieldClass w) 0#12 := by
  apply BitVec.eq_of_getLsbD_eq
  intro j hj
  rw [BitVec.getLsbD_and, getLsbD_encodeA]
  interval_cases j <;> simp [fieldClass]

theorem and_F0FF (w : Word) : w &&& 0xF0FF#16 = encodeXK (fieldClass w) 0#4 (fieldKK w) := by
  apply BitVec.eq_of_getLsbD_eq
  intro j hj
  have h : encodeXK (fieldClass w) 0#4 (fieldKK w) = wordOfBytes (fieldClass w ++ 0#4 : Byte) (fieldKK w) := rfl
  rw [BitVec.getLsbD_and, h, getLsbD_wordOfBytes, getLsbD_byteOf]
  interval_cases j <;> simp [fieldClass, fieldKK]

theorem and_F00F (w : Word) : w &&& 0xF00F#16 = encodeXYN (fieldClass w) 0#4 0#4 (fieldN w) := by
  apply BitVec.eq_of_getLsbD_eq
  intro j hj
  have h : encodeXYN (fieldClass w) 0#4 0#4 (fieldN w) =
      wordOfBytes (fieldClass w ++ 0#4 : Byte) (0#4 ++ fieldN w : Byte) := rfl
  rw [BitVec.getLsbD_and, h, getLsbD_wordOfBytes, getLsbD_byteOf, getLsbD_byteOf]
  interval_cases j <;> simp [fieldClass, fieldN]

end Sys2Proof
end

