-- ==== Sys2Proof/Laws/Display.lean ====
section
/-! SUPPORT. The blitter as a list of toggled pixels, no two of them equal (R234). -/

namespace Sys2Proof.Machine

/-- The destinations of the set bits of one sprite row. -/
def lineDests (sx sy b : Byte) (row : Nat) : List Nat :=
  ((List.range 8).filter (spriteBit b)).map (destPixel sx sy row)

/-- The destinations of the set bits of the sprite at `I`, row by row. -/
def State.spriteDests (s : State) (sx sy : Byte) (n : Nat) : List Nat :=
  (List.range n).flatMap (fun row => lineDests sx sy (s.memRead (s.ea row)) row)

theorem foldl_column (cols : List Nat) (sx sy b : Byte) (row : Nat) (p : Raster) :
    cols.foldl (Raster.column sx sy b row) p =
      ((cols.filter (spriteBit b)).map (destPixel sx sy row)).foldl Raster.toggle p := by
  induction cols generalizing p with
  | nil => rfl
  | cons c cols ih =>
    rw [List.foldl_cons, ih, Raster.column]
    cases hb : spriteBit b c <;> simp [hb]

/-- The blitter toggles the destinations of the set bits, one after another. -/
theorem State.blit_eq_toggles (s : State) (sx sy : Byte) (n : Nat) :
    s.blit sx sy n = (s.spriteDests sx sy n).foldl Raster.toggle ⟨s.fb, false⟩ := by
  rw [State.blit, State.spriteDests, List.foldl_flatMap]
  congr 1
  funext p row
  exact foldl_column _ _ _ _ _ _

theorem destPixel_lt (sx sy : Byte) (row col : Nat) : destPixel sx sy row col < 2048 := by
  simp only [destPixel]; omega

/-- Different sprite bits have different destinations (R234). -/
theorem destPixel_inj {sx sy : Byte} {r r' c c' : Nat} (hr : r < 32) (hr' : r' < 32) (hc : c < 64) (hc' : c' < 64)
    (h : destPixel sx sy r c = destPixel sx sy r' c') : r = r' ∧ c = c' := by
  simp only [destPixel] at h
  omega

theorem State.mem_spriteDests (s : State) (sx sy : Byte) (n j : Nat) :
    j ∈ s.spriteDests sx sy n ↔
      ∃ row < n, ∃ col < 8, spriteBit (s.memRead (s.ea row)) col = true ∧ destPixel sx sy row col = j := by
  simp [State.spriteDests, lineDests, List.mem_flatMap, and_assoc]

theorem State.nodup_spriteDests (s : State) (sx sy : Byte) (n : Nat) (hn : n ≤ 32) :
    (s.spriteDests sx sy n).Nodup := by
  rw [State.spriteDests, List.nodup_flatMap]
  constructor
  · intro row hrow
    refine List.Nodup.map_on ?_ (List.nodup_range.filter _)
    intro c hc c' hc' h
    simp only [List.mem_filter, List.mem_range] at hc hc' hrow
    exact (destPixel_inj (by omega) (by omega) (by omega) (by omega) h).2
  · refine List.Pairwise.imp_of_mem ?_ List.nodup_range
    intro r r' hr hr' hne
    simp only [Function.onFun, List.disjoint_left, lineDests, List.mem_map, List.mem_filter, List.mem_range] at *
    rintro j ⟨c, ⟨hc, -⟩, rfl⟩ ⟨c', ⟨hc', -⟩, h⟩
    exact hne (destPixel_inj (by omega) (by omega) (by omega) (by omega) h).1.symm

/-- Toggling different pixels complements each of them once and leaves the rest. -/
theorem foldl_toggle_fb (js : List Nat) (p : Raster) (hd : js.Nodup) (hlt : ∀ j ∈ js, j < 2048) (j : Nat) :
    (js.foldl Raster.toggle p).fb.getLsbD j = (p.fb.getLsbD j ^^ decide (j ∈ js)) := by
  induction js generalizing p with
  | nil => simp
  | cons k js ih =>
    rw [List.nodup_cons] at hd
    rw [List.foldl_cons, ih _ hd.2 fun j hj => hlt j (List.mem_cons_of_mem _ hj)]
    have hk := hlt k List.mem_cons_self
    simp only [Raster.toggle, BitVec.getLsbD_xor, BitVec.getLsbD_twoPow, List.mem_cons]
    by_cases h : j = k
    · subst h; simp [hd.1, hk]
    · simp [h, Ne.symm h]

/-- A collision is a toggled pixel that was 1 before. -/
theorem foldl_toggle_hit (js : List Nat) (p : Raster) (hd : js.Nodup) :
    (js.foldl Raster.toggle p).hit = (p.hit || js.any (fun j => p.fb.getLsbD j)) := by
  induction js generalizing p with
  | nil => simp
  | cons k js ih =>
    rw [List.nodup_cons] at hd
    rw [List.foldl_cons, ih _ hd.2, List.any_cons, Raster.toggle, Bool.or_assoc]
    congr 2
    rw [Bool.eq_iff_iff]
    simp only [List.any_eq_true]
    have hne : ∀ j ∈ js, k ≠ j := fun j hj h => hd.1 (h ▸ hj)
    constructor
    · rintro ⟨j, hj, h⟩
      refine ⟨j, hj, ?_⟩
      simpa [BitVec.getLsbD_twoPow, hne j hj] using h
    · rintro ⟨j, hj, h⟩
      refine ⟨j, hj, ?_⟩
      simpa [BitVec.getLsbD_twoPow, hne j hj] using h

end Sys2Proof.Machine
end

