-- ==== Sys2Proof/Laws/HostPort.lean ====
section
/-! SUPPORT. The memory that reset builds: canonical, and holding the wanted content in every cell (R39). -/

namespace Sys2Proof.Machine

/-- One cell of `Memory.ofContents`. -/
def contentCell (f : Nat → Byte) (a : Nat) : Option Host.Cell :=
  if Memory.resetByte? a = some (f a) then none else some (a, f a)

theorem Memory.ofContents_eq (f : Nat → Byte) :
    Memory.ofContents f = (List.range' 0 Config.memSize).filterMap (contentCell f) := by
  rw [← List.range_eq_range']
  rfl

theorem Memory.risesFrom_contents (f : Nat → Byte) (lo n : Nat) :
    Memory.risesFrom lo ((List.range' lo n).filterMap (contentCell f)) = true := by
  induction n generalizing lo with
  | zero => rfl
  | succ n ih =>
    rw [List.range'_succ, List.filterMap_cons, contentCell]
    split
    · exact Memory.risesFrom_mono _ (Nat.le_succ lo) (ih (lo + 1))
    · rename_i c hc
      have : c = (lo, f lo) := by
        split at hc
        · cases hc
        · exact (Option.some.inj hc).symm
      subst this
      simp only [Memory.risesFrom, Bool.and_eq_true, decide_eq_true_eq]
      exact ⟨le_refl lo, ih (lo + 1)⟩

theorem Memory.ofContents_wf (f : Nat → Byte) : (Memory.ofContents f).wf = true := by
  rw [Memory.ofContents_eq, Memory.wf_iff]
  refine ⟨Memory.risesFrom_contents f 0 _, fun c hc => ?_⟩
  obtain ⟨a, ha, h⟩ := List.mem_filterMap.mp hc
  rw [contentCell] at h
  split at h
  · cases h
  · rename_i hne
    cases Option.some.inj h
    have : a < Config.memSize := by simpa using ha
    simp [Memory.cellOk, this, hne]

theorem Memory.listed?_contents (f : Nat → Byte) (lo n a : Nat) (h1 : lo ≤ a) (h2 : a < lo + n) :
    Memory.listed? ((List.range' lo n).filterMap (contentCell f)) a =
      if Memory.resetByte? a = some (f a) then none else some (f a) := by
  induction n generalizing lo with
  | zero => omega
  | succ n ih =>
    rw [List.range'_succ, List.filterMap_cons]
    by_cases hlo : lo = a
    · subst hlo
      rw [contentCell]
      by_cases hb : Memory.resetByte? lo = some (f lo)
      · simp only [hb, if_true]
        exact Memory.listed?_eq_none _ _ _ (Memory.risesFrom_contents f (lo + 1) n) (Nat.lt_succ_self lo)
      · simp [hb, Memory.listed?]
    · have := ih (lo + 1) (by omega) (by omega)
      rw [contentCell]
      by_cases hb : Memory.resetByte? lo = some (f lo)
      · simp only [hb, if_true]; exact this
      · simp only [hb, if_false, Memory.listed?, hlo]; exact this

/-- Every cell of the built memory reads as wanted. -/
theorem Memory.read_ofContents (f : Nat → Byte) (a : Nat) (h : a < Config.memSize) :
    (Memory.ofContents f).read a = f a := by
  rw [Memory.read, Memory.ofContents_eq, Memory.listed?_contents f 0 _ a (Nat.zero_le a) (by omega)]
  split
  · rename_i hb; simp [Memory.unlisted, hb]
  · rfl

/-! ### The reset state, field by field -/

@[simp] theorem initMachine_v (g m : Nat → Byte) (ir : Word) (s : State) :
    (initMachine g m ir s).v = Vector.replicate 16 0#8 := rfl

@[simp] theorem initMachine_pc (g m : Nat → Byte) (ir : Word) (s : State) :
    (initMachine g m ir s).pc = 0x0200#16 := rfl

@[simp] theorem initMachine_i (g m : Nat → Byte) (ir : Word) (s : State) :
    (initMachine g m ir s).i = 0#16 := rfl

@[simp] theorem initMachine_stack (g m : Nat → Byte) (ir : Word) (s : State) :
    (initMachine g m ir s).stack = Vector.replicate 16 0#16 := rfl

@[simp] theorem initMachine_sp (g m : Nat → Byte) (ir : Word) (s : State) :
    (initMachine g m ir s).sp = 0#4 := rfl

@[simp] theorem initMachine_dt (g m : Nat → Byte) (ir : Word) (s : State) :
    (initMachine g m ir s).dt = 0#8 := rfl

@[simp] theorem initMachine_st (g m : Nat → Byte) (ir : Word) (s : State) :
    (initMachine g m ir s).st = 0#8 := rfl

@[simp] theorem initMachine_key (g m : Nat → Byte) (ir : Word) (s : State) :
    (initMachine g m ir s).key = 0#16 := rfl

@[simp] theorem initMachine_fb (g m : Nat → Byte) (ir : Word) (s : State) :
    (initMachine g m ir s).fb = 0#2048 := rfl

@[simp] theorem initMachine_ir (g m : Nat → Byte) (ir : Word) (s : State) :
    (initMachine g m ir s).ir = ir := rfl

@[simp] theorem initMachine_mem (g m : Nat → Byte) (ir : Word) (s : State) :
    (initMachine g m ir s).mem = Memory.ofContents (resetContents g m) := by
  rw [initMachine]

@[simp] theorem initMachine_status (g m : Nat → Byte) (ir : Word) (s : State) :
    (initMachine g m ir s).status = .ok := rfl

@[simp] theorem initMachine_rndIn (g m : Nat → Byte) (ir : Word) (s : State) :
    (initMachine g m ir s).rndIn = s.rndIn := rfl

@[simp] theorem initMachine_draws (g m : Nat → Byte) (ir : Word) (s : State) :
    (initMachine g m ir s).draws = s.draws := rfl

/-- Every cell after reset (R39): the glyph table and MEM_RESET. -/
theorem read_initMachine (g m : Nat → Byte) (ir : Word) (s : State) (a : Nat) (h : a < Config.memSize) :
    (initMachine g m ir s).mem.read a = resetContents g m a := by
  rw [initMachine_mem]
  exact Memory.read_ofContents _ a h

theorem initMachine_mem_wf (g m : Nat → Byte) (ir : Word) (s : State) : (initMachine g m ir s).mem.wf = true := by
  rw [initMachine_mem]
  exact Memory.ofContents_wf _

end Sys2Proof.Machine
end

