-- ==== Sys2Proof/Laws/PerInstr.lean ====
section
/-! SUPPORT. For every instruction: its word lies in the row of R95 that bears its key. -/

namespace Sys2Proof

/-- `(w AND mask) = match` for the instruction's own row (R94, R95). -/
def Laws.EncodesInRow.Statement (i : Instr) : Prop :=
  ∃ row ∈ opcodeRows, row.mnemonic = i.mnemonic ∧ encode i &&& row.mask = row.pat

/-! ### A row's mask over its format -/

theorem encodeA_and_F000 (c : Nibble) (a : Addr) : encodeA c a &&& 0xF000#16 = encodeA c 0#12 := by
  rw [and_F000, fieldClass_encodeA]

theorem encodeXK_and_F000 (c x : Nibble) (k : Byte) : encodeXK c x k &&& 0xF000#16 = encodeA c 0#12 := by
  rw [and_F000, fieldClass_encodeXK]

theorem encodeXK_and_F0FF (c x : Nibble) (k : Byte) : encodeXK c x k &&& 0xF0FF#16 = encodeXK c 0#4 k := by
  rw [and_F0FF, fieldClass_encodeXK, fieldKK_encodeXK]

theorem encodeXYN_and_F000 (c x y n : Nibble) : encodeXYN c x y n &&& 0xF000#16 = encodeA c 0#12 := by
  rw [and_F000, fieldClass_encodeXYN]

theorem encodeXYN_and_F00F (c x y n : Nibble) : encodeXYN c x y n &&& 0xF00F#16 = encodeXYN c 0#4 0#4 n := by
  rw [and_F00F, fieldClass_encodeXYN, fieldN_encodeXYN]

/-! ### One lemma per instruction -/

theorem Laws.EncodesInRow.cls : Laws.EncodesInRow.Statement (.cls) :=
  ⟨⟨"CLS", 0xFFFF, 0x00E0⟩, by decide, rfl, rfl⟩

theorem Laws.EncodesInRow.ret : Laws.EncodesInRow.Statement (.ret) :=
  ⟨⟨"RET", 0xFFFF, 0x00EE⟩, by decide, rfl, rfl⟩

theorem Laws.EncodesInRow.jp (nnn : Addr) : Laws.EncodesInRow.Statement (.jp nnn) :=
  ⟨⟨"JP_nnn", 0xF000, 0x1000⟩, by decide, rfl, encodeA_and_F000 _ _⟩

theorem Laws.EncodesInRow.call (nnn : Addr) : Laws.EncodesInRow.Statement (.call nnn) :=
  ⟨⟨"CALL_nnn", 0xF000, 0x2000⟩, by decide, rfl, encodeA_and_F000 _ _⟩

theorem Laws.EncodesInRow.seImm (x : Nibble) (kk : Byte) : Laws.EncodesInRow.Statement (.seImm x kk) :=
  ⟨⟨"SE_Vx_kk", 0xF000, 0x3000⟩, by decide, rfl, encodeXK_and_F000 _ _ _⟩

theorem Laws.EncodesInRow.sneImm (x : Nibble) (kk : Byte) : Laws.EncodesInRow.Statement (.sneImm x kk) :=
  ⟨⟨"SNE_Vx_kk", 0xF000, 0x4000⟩, by decide, rfl, encodeXK_and_F000 _ _ _⟩

theorem Laws.EncodesInRow.seReg (x y : Nibble) : Laws.EncodesInRow.Statement (.seReg x y) :=
  ⟨⟨"SE_Vx_Vy", 0xF00F, 0x5000⟩, by decide, rfl, encodeXYN_and_F00F _ _ _ _⟩

theorem Laws.EncodesInRow.ldImm (x : Nibble) (kk : Byte) : Laws.EncodesInRow.Statement (.ldImm x kk) :=
  ⟨⟨"LD_Vx_kk", 0xF000, 0x6000⟩, by decide, rfl, encodeXK_and_F000 _ _ _⟩

theorem Laws.EncodesInRow.addImm (x : Nibble) (kk : Byte) : Laws.EncodesInRow.Statement (.addImm x kk) :=
  ⟨⟨"ADD_Vx_kk", 0xF000, 0x7000⟩, by decide, rfl, encodeXK_and_F000 _ _ _⟩

theorem Laws.EncodesInRow.ldReg (x y : Nibble) : Laws.EncodesInRow.Statement (.ldReg x y) :=
  ⟨⟨"LD_Vx_Vy", 0xF00F, 0x8000⟩, by decide, rfl, encodeXYN_and_F00F _ _ _ _⟩

theorem Laws.EncodesInRow.orReg (x y : Nibble) : Laws.EncodesInRow.Statement (.orReg x y) :=
  ⟨⟨"OR_Vx_Vy", 0xF00F, 0x8001⟩, by decide, rfl, encodeXYN_and_F00F _ _ _ _⟩

theorem Laws.EncodesInRow.andReg (x y : Nibble) : Laws.EncodesInRow.Statement (.andReg x y) :=
  ⟨⟨"AND_Vx_Vy", 0xF00F, 0x8002⟩, by decide, rfl, encodeXYN_and_F00F _ _ _ _⟩

theorem Laws.EncodesInRow.xorReg (x y : Nibble) : Laws.EncodesInRow.Statement (.xorReg x y) :=
  ⟨⟨"XOR_Vx_Vy", 0xF00F, 0x8003⟩, by decide, rfl, encodeXYN_and_F00F _ _ _ _⟩

theorem Laws.EncodesInRow.addReg (x y : Nibble) : Laws.EncodesInRow.Statement (.addReg x y) :=
  ⟨⟨"ADD_Vx_Vy", 0xF00F, 0x8004⟩, by decide, rfl, encodeXYN_and_F00F _ _ _ _⟩

theorem Laws.EncodesInRow.subReg (x y : Nibble) : Laws.EncodesInRow.Statement (.subReg x y) :=
  ⟨⟨"SUB_Vx_Vy", 0xF00F, 0x8005⟩, by decide, rfl, encodeXYN_and_F00F _ _ _ _⟩

theorem Laws.EncodesInRow.shr (x y : Nibble) : Laws.EncodesInRow.Statement (.shr x y) :=
  ⟨⟨"SHR_Vx", 0xF00F, 0x8006⟩, by decide, rfl, encodeXYN_and_F00F _ _ _ _⟩

theorem Laws.EncodesInRow.subnReg (x y : Nibble) : Laws.EncodesInRow.Statement (.subnReg x y) :=
  ⟨⟨"SUBN_Vx_Vy", 0xF00F, 0x8007⟩, by decide, rfl, encodeXYN_and_F00F _ _ _ _⟩

theorem Laws.EncodesInRow.shl (x y : Nibble) : Laws.EncodesInRow.Statement (.shl x y) :=
  ⟨⟨"SHL_Vx", 0xF00F, 0x800E⟩, by decide, rfl, encodeXYN_and_F00F _ _ _ _⟩

theorem Laws.EncodesInRow.sneReg (x y : Nibble) : Laws.EncodesInRow.Statement (.sneReg x y) :=
  ⟨⟨"SNE_Vx_Vy", 0xF00F, 0x9000⟩, by decide, rfl, encodeXYN_and_F00F _ _ _ _⟩

theorem Laws.EncodesInRow.ldI (nnn : Addr) : Laws.EncodesInRow.Statement (.ldI nnn) :=
  ⟨⟨"LD_I_nnn", 0xF000, 0xA000⟩, by decide, rfl, encodeA_and_F000 _ _⟩

theorem Laws.EncodesInRow.rnd (x : Nibble) (kk : Byte) : Laws.EncodesInRow.Statement (.rnd x kk) :=
  ⟨⟨"RND_Vx_kk", 0xF000, 0xC000⟩, by decide, rfl, encodeXK_and_F000 _ _ _⟩

theorem Laws.EncodesInRow.drw (x y n : Nibble) : Laws.EncodesInRow.Statement (.drw x y n) :=
  ⟨⟨"DRW_Vx_Vy_n", 0xF000, 0xD000⟩, by decide, rfl, encodeXYN_and_F000 _ _ _ _⟩

theorem Laws.EncodesInRow.skp (x : Nibble) : Laws.EncodesInRow.Statement (.skp x) :=
  ⟨⟨"SKP_Vx", 0xF0FF, 0xE09E⟩, by decide, rfl, encodeXK_and_F0FF _ _ _⟩

theorem Laws.EncodesInRow.sknp (x : Nibble) : Laws.EncodesInRow.Statement (.sknp x) :=
  ⟨⟨"SKNP_Vx", 0xF0FF, 0xE0A1⟩, by decide, rfl, encodeXK_and_F0FF _ _ _⟩

theorem Laws.EncodesInRow.ldVxDT (x : Nibble) : Laws.EncodesInRow.Statement (.ldVxDT x) :=
  ⟨⟨"LD_Vx_DT", 0xF0FF, 0xF007⟩, by decide, rfl, encodeXK_and_F0FF _ _ _⟩

theorem Laws.EncodesInRow.ldVxK (x : Nibble) : Laws.EncodesInRow.Statement (.ldVxK x) :=
  ⟨⟨"LD_Vx_K", 0xF0FF, 0xF00A⟩, by decide, rfl, encodeXK_and_F0FF _ _ _⟩

theorem Laws.EncodesInRow.ldDTVx (x : Nibble) : Laws.EncodesInRow.Statement (.ldDTVx x) :=
  ⟨⟨"LD_DT_Vx", 0xF0FF, 0xF015⟩, by decide, rfl, encodeXK_and_F0FF _ _ _⟩

theorem Laws.EncodesInRow.ldSTVx (x : Nibble) : Laws.EncodesInRow.Statement (.ldSTVx x) :=
  ⟨⟨"LD_ST_Vx", 0xF0FF, 0xF018⟩, by decide, rfl, encodeXK_and_F0FF _ _ _⟩

theorem Laws.EncodesInRow.addIVx (x : Nibble) : Laws.EncodesInRow.Statement (.addIVx x) :=
  ⟨⟨"ADD_I_Vx", 0xF0FF, 0xF01E⟩, by decide, rfl, encodeXK_and_F0FF _ _ _⟩

theorem Laws.EncodesInRow.ldFVx (x : Nibble) : Laws.EncodesInRow.Statement (.ldFVx x) :=
  ⟨⟨"LD_F_Vx", 0xF0FF, 0xF029⟩, by decide, rfl, encodeXK_and_F0FF _ _ _⟩

theorem Laws.EncodesInRow.ldBVx (x : Nibble) : Laws.EncodesInRow.Statement (.ldBVx x) :=
  ⟨⟨"LD_B_Vx", 0xF0FF, 0xF033⟩, by decide, rfl, encodeXK_and_F0FF _ _ _⟩

theorem Laws.EncodesInRow.ldIndVx (x : Nibble) : Laws.EncodesInRow.Statement (.ldIndVx x) :=
  ⟨⟨"LD_I_ind_Vx", 0xF0FF, 0xF055⟩, by decide, rfl, encodeXK_and_F0FF _ _ _⟩

theorem Laws.EncodesInRow.ldVxInd (x : Nibble) : Laws.EncodesInRow.Statement (.ldVxInd x) :=
  ⟨⟨"LD_Vx_I_ind", 0xF0FF, 0xF065⟩, by decide, rfl, encodeXK_and_F0FF _ _ _⟩

end Sys2Proof
end

