-- ==== Sys2Proof/Laws/Step.lean ====
section
/-! SUPPORT. Everything a cycle can do, said once, and the small facts of the shared operations of control flow,
flags and keys. -/

namespace Sys2Proof.Machine

/-- A cycle that answers a next state either ran the decoded instruction's handler and ended with status Ok, or
fetched an unrecognized word. -/
theorem cycle_cases {ext : Bool} {s t : State} (h : cycle ext s = .next t) :
    (∃ i u, decodeWord s.fetch.ir = .ok i ∧ exec i s.fetch = .next u ∧ t = u.endCycle .ok) ∨
    (∃ r, decodeWord s.fetch.ir = .error r ∧ t = s.fetch.unrecognized ext) := by
  unfold cycle at h
  split at h
  · rename_i i hd
    unfold finishCycle at h
    split at h
    · rename_i u hu
      exact .inl ⟨i, u, hd, hu, (Host.Outcome.next.inj h).symm⟩
    · cases h
    · cases h
  · rename_i r hd
    exact .inr ⟨r, hd, (Host.Outcome.next.inj h).symm⟩

/-- The same of the host's step. -/
theorem step_cases {s t : State} (h : step s = .next t) :
    (∃ i u, decodeWord s.fetch.ir = .ok i ∧ exec i s.fetch = .next u ∧ t = u.endCycle .ok) ∨
    (∃ r, decodeWord s.fetch.ir = .error r ∧ t = s.fetch.unrecognized extJpV0) :=
  cycle_cases h

/-- A recognized word's cycle does not depend on EXT_JP_V0. -/
theorem cycle_of_ok {ext : Bool} {s : State} {i : Instr} (h : decodeWord s.fetch.ir = .ok i) :
    cycle ext s = finishCycle (exec i s.fetch) := by
  rw [cycle, h]

theorem cycle_of_error {ext : Bool} {s : State} {r : Reject} (h : decodeWord s.fetch.ir = .error r) :
    cycle ext s = .next (s.fetch.unrecognized ext) := by
  rw [cycle, h]

theorem finishCycle_next (t : State) : finishCycle (.next t) = .next (t.endCycle .ok) := rfl

/-! ### The unrecognized-instruction error -/

/-- With EXT_JP_V0 off every unrecognized word ends its cycle the same way (R126). -/
theorem State.unrecognized_off (s : State) :
    s.unrecognized extJpV0 = s.endCycle (.unrecognizedInstruction s.ir (s.pc - 2#16)) := rfl

/-- EXT_JP_V0 matters for a class-B word only (R98). -/
theorem State.unrecognized_of_not_classB (s : State) (ext : Bool) (h : fieldClass s.ir ≠ 0xB#4) :
    s.unrecognized ext = s.unrecognized extJpV0 := by
  simp [State.unrecognized, h]

/-- With EXT_JP_V0 on a class-B word is the jump of U14. -/
theorem State.unrecognized_classB (s : State) (h : fieldClass s.ir = 0xB#4) :
    s.unrecognized true =
      (s.setPc ((fieldNNN s.ir).setWidth 16 + (s.reg 0#4).setWidth 16)).endCycle .ok := by
  simp [State.unrecognized, h]

/-- A cycle leaves memory alone outside its handler. -/
@[simp] theorem State.mem_endCycle (s : State) (c : Status) : (s.endCycle c).mem = s.mem := rfl

/-! ### Skips (R147) -/

theorem State.skipIf_eq (s : State) (c : Bool) :
    s.skipIf c = s.setPc (if c = true then s.pc + 2#16 else s.pc) := by
  cases c <;> rfl

/-! ### Flags (R172) -/

/-- The flag goes to VF, the result to `V[x]`, and where they are one register the result survives. -/
theorem State.reg_setFlagged (s : State) (x r : Nibble) (f : Bool) (b : Byte) :
    (s.setFlagged x f b).reg r = if r = x then b else if r = flagReg then flagByte f else s.reg r := by
  rw [State.setFlagged, State.reg_setReg, State.reg_setReg]

theorem State.setFlagged_frame (s : State) (x : Nibble) (f : Bool) (b : Byte) :
    s.setFlagged x f b = { s with v := (s.setFlagged x f b).v } := rfl

theorem toNat_addResult (a b : Byte) : (addResult a b).toNat = (a.toNat + b.toNat) % 256 := by
  simp [addResult]

theorem toNat_subResult (a b : Byte) : (subResult a b).toNat = (a.toNat + 256 - b.toNat) % 256 := by
  simp [subResult]

/-! ### Keys (R225) -/

theorem lowestKey_eq_none (k : BitVec 16) : lowestKey k = none ↔ ∀ j < 16, k.getLsbD j = false := by
  simp [lowestKey]

theorem lowestKey_eq_some (k : BitVec 16) (j : Nat) :
    lowestKey k = some j ↔ j < 16 ∧ k.getLsbD j = true ∧ ∀ m < j, k.getLsbD m = false := by
  simp only [lowestKey, List.find?_range_eq_some, List.mem_range, Bool.not_eq_eq_eq_not]
  tauto

end Sys2Proof.Machine
end

