-- ==== Sys2Proof/Laws/Safety.lean ====
section
/-! SUPPORT. The claims' view of a cycle, read off the status of the state the cycle answers (R250). -/

namespace Sys2Proof.Machine

theorem strictCycle_of_ok {ext : Bool} {s t : State} (h : cycle ext s = .next t) (hs : t.status = .ok) :
    strictCycle ext s = .next t := by
  simp only [strictCycle, h, hs]

theorem strictCycle_of_unrecognized {ext : Bool} {s t : State} {w a : Word} (h : cycle ext s = .next t)
    (hs : t.status = .unrecognizedInstruction w a) :
    strictCycle ext s = .fault (.unrecognizedInstruction w a) := by
  simp only [strictCycle, h, hs]

end Sys2Proof.Machine
end

