-- ==== Sys2Proof/Tests/Slice0.lean ====
section
/-! SUPPORT. The model's own tests. Expected values come from spec/95_test_vectors.md (hand-written there from the
rules), the words from the encodings of 30_encoding.md R92 and R95. Then, for every statement with hypotheses, a
witness that meets them. -/

set_option maxRecDepth 20000

namespace Sys2Proof.Tests

open Sys2Proof.Machine

/-! ### Helpers -/

/-- One cycle of the word `w`, placed where `s` fetches. -/
def run (w : Nat) (s : State) : State := (s.withFetchWord 16 w).afterCycle

/-- The reset state with three registers given. -/
def start (v0 v1 vf : Byte) : State := ((State.reset.setReg 0#4 v0).setReg 1#4 v1).setReg 15#4 vf

/-- The three registers the arithmetic vectors name. -/
def regs (s : State) : Byte × Byte × Byte := (s.reg 0#4, s.reg 1#4, s.reg 15#4)

/-- The reset state with `I` and `V[0]` given. -/
def index (i : Word) (v0 : Byte) : State := (State.reset.setI i).setReg 0#4 v0

/-- The reset state with `I = 0x300`, one sprite byte there, and `FB[0]` given. -/
def sprite (b v0 v1 vf : Byte) (fb : BitVec 2048) : State :=
  (((start v0 v1 vf).setI 0x300#16).memWrite 0x300 b).setFb fb

/-! ### Well-formedness: the one check that can refuse, and its boundary (R264) -/

theorem test_image_boundary_accepted : imageWellFormed (List.replicate 3584 0#8) = true := by
  simp [imageWellFormed, Config.maxProgram]

theorem test_oversize_image_refused : imageWellFormed (List.replicate 3585 0#8) = false := by
  simp [imageWellFormed, Config.maxProgram]

theorem test_instruction_accepted : (Instr.drw 15#4 15#4 15#4).wellFormed = true := by decide

/-! ### Decoding: a word of every constructor, bit by bit from R92 and R95 -/

theorem test_decode_control :
    decodeTableWord 16 0b0000_0000_1110_1110 = some .ret ∧
    decodeTableWord 16 0b0001_1010_1011_1100 = some (.jp 0xABC#12) ∧
    decodeTableWord 16 0b0010_1111_1111_1110 = some (.call 0xFFE#12) ∧
    decodeTableWord 16 0b0011_1010_0100_0010 = some (.seImm 0xA#4 0x42#8) ∧
    decodeTableWord 16 0b0100_1010_0100_0010 = some (.sneImm 0xA#4 0x42#8) ∧
    decodeTableWord 16 0b0101_1010_1011_0000 = some (.seReg 0xA#4 0xB#4) ∧
    decodeTableWord 16 0b1001_1010_1011_0000 = some (.sneReg 0xA#4 0xB#4) ∧
    decodeTableWord 16 0b1110_0011_1001_1110 = some (.skp 0x3#4) ∧
    decodeTableWord 16 0b1110_0011_1010_0001 = some (.sknp 0x3#4) := by decide

theorem test_decode_arithmetic :
    decodeTableWord 16 0b0110_1111_1010_1011 = some (.ldImm 0xF#4 0xAB#8) ∧
    decodeTableWord 16 0b0111_0001_0000_0010 = some (.addImm 0x1#4 0x02#8) ∧
    decodeTableWord 16 0b1000_0010_0001_0000 = some (.ldReg 0x2#4 0x1#4) ∧
    decodeTableWord 16 0b1000_0010_0001_0001 = some (.orReg 0x2#4 0x1#4) ∧
    decodeTableWord 16 0b1000_0010_0001_0010 = some (.andReg 0x2#4 0x1#4) ∧
    decodeTableWord 16 0b1000_0010_0001_0011 = some (.xorReg 0x2#4 0x1#4) ∧
    decodeTableWord 16 0b1000_0010_0001_0100 = some (.addReg 0x2#4 0x1#4) ∧
    decodeTableWord 16 0b1000_0010_0001_0101 = some (.subReg 0x2#4 0x1#4) ∧
    decodeTableWord 16 0b1000_0010_0001_0110 = some (.shr 0x2#4 0x1#4) ∧
    decodeTableWord 16 0b1000_0010_0001_0111 = some (.subnReg 0x2#4 0x1#4) ∧
    decodeTableWord 16 0b1000_0010_0001_1110 = some (.shl 0x2#4 0x1#4) := by decide

theorem test_decode_index_memory :
    decodeTableWord 16 0b1010_0011_0000_0001 = some (.ldI 0x301#12) ∧
    decodeTableWord 16 0b1111_0010_0001_1110 = some (.addIVx 0x2#4) ∧
    decodeTableWord 16 0b1111_0010_0010_1001 = some (.ldFVx 0x2#4) ∧
    decodeTableWord 16 0b1111_0010_0011_0011 = some (.ldBVx 0x2#4) ∧
    decodeTableWord 16 0b1111_0010_0101_0101 = some (.ldIndVx 0x2#4) ∧
    decodeTableWord 16 0b1111_0010_0110_0101 = some (.ldVxInd 0x2#4) := by decide

theorem test_decode_random_timers_input_display :
    decodeTableWord 16 0b1100_0011_0000_1111 = some (.rnd 0x3#4 0x0F#8) ∧
    decodeTableWord 16 0b1111_0011_0000_0111 = some (.ldVxDT 0x3#4) ∧
    decodeTableWord 16 0b1111_0011_0001_0101 = some (.ldDTVx 0x3#4) ∧
    decodeTableWord 16 0b1111_0011_0001_1000 = some (.ldSTVx 0x3#4) ∧
    decodeTableWord 16 0b1111_0011_0000_1010 = some (.ldVxK 0x3#4) ∧
    decodeTableWord 16 0b0000_0000_1110_0000 = some .cls ∧
    decodeTableWord 16 0b1101_0001_0010_0101 = some (.drw 0x1#4 0x2#4 0x5#4) := by decide

/-- spec/95 section 2.8, every word listed there. -/
theorem test_decode_unrecognized :
    [0x0000, 0x00E1, 0x00EF, 0x00FE, 0x01E0, 0x0FFF, 0x5121, 0x512F, 0x8128, 0x8129, 0x812F, 0x9121, 0xB300, 0xBFFF,
      0xE100, 0xE19F, 0xE0A0, 0xEEEE, 0xF100, 0xF00B, 0xF166, 0xF1FF].all
      (fun w => decodeTableWord 16 w == none) = true := by decide

theorem test_decode_truncated : decodeBytes [0x60#8] = .error .truncated := rfl

/-! ### Control flow, spec/95 section 2.1 -/

theorem test_jp_odd : (run 0x1201 State.reset).pc = 0x201#16 := by decide

theorem test_call_pushes_wrapped_pc :
    let t := run 0x2300 (State.reset.setPc 0xFFE#16)
    t.stackAt 0#4 = 0x1000#16 ∧ t.sp = 1#4 ∧ t.pc = 0x300#16 := by decide

theorem test_call_wraps_sp :
    let t := run 0x2300 (State.reset.setSp 15#4)
    t.stackAt 15#4 = 0x202#16 ∧ t.sp = 0#4 := by decide

theorem test_ret_keeps_entry :
    let t := run 0x00EE ((State.reset.setSp 1#4).setStackAt 0#4 0x206#16)
    t.sp = 0#4 ∧ t.pc = 0x206#16 ∧ t.stackAt 0#4 = 0x206#16 := by decide

theorem test_ret_on_empty_wraps :
    let t := run 0x00EE State.reset
    t.sp = 15#4 ∧ t.pc = 0#16 ∧ t.status = .ok := by decide

theorem test_seImm :
    (run 0x3A42 (State.reset.setReg 10#4 0x42#8)).pc = 0x204#16 ∧
    (run 0x3A42 (State.reset.setReg 10#4 0x43#8)).pc = 0x202#16 := by decide

theorem test_seImm_wraps_pc : (run 0x3000 (State.reset.setPc 0xFFFE#16)).pc = 0x0002#16 := by decide

theorem test_sneImm :
    (run 0x4A42 (State.reset.setReg 10#4 0x42#8)).pc = 0x202#16 ∧
    (run 0x4A42 (State.reset.setReg 10#4 0x43#8)).pc = 0x204#16 := by decide

theorem test_seReg :
    (run 0x5AB0 ((State.reset.setReg 10#4 7#8).setReg 11#4 7#8)).pc = 0x204#16 ∧
    (run 0x5AB0 ((State.reset.setReg 10#4 7#8).setReg 11#4 8#8)).pc = 0x202#16 := by decide

theorem test_sneReg :
    (run 0x9AB0 ((State.reset.setReg 10#4 7#8).setReg 11#4 7#8)).pc = 0x202#16 ∧
    (run 0x9AB0 ((State.reset.setReg 10#4 7#8).setReg 11#4 8#8)).pc = 0x204#16 := by decide

theorem test_skp_index_mod_16 :
    (run 0xE09E (setKey 5#4 true (start 0x15#8 0#8 0#8))).pc = 0x204#16 ∧
    (run 0xE09E (start 0x05#8 0#8 0#8)).pc = 0x202#16 := by decide

theorem test_sknp :
    (run 0xE0A1 (setKey 5#4 true (start 0x15#8 0#8 0#8))).pc = 0x202#16 ∧
    (run 0xE0A1 (start 0x05#8 0#8 0#8)).pc = 0x204#16 := by decide

/-! ### Arithmetic, spec/95 section 2.2 -/

theorem test_ldImm_VF : (run 0x6FAB State.reset).reg 15#4 = 0xAB#8 := by decide

theorem test_addImm_no_flag : regs (run 0x7001 (start 0xFF#8 0#8 7#8)) = (0x00#8, 0#8, 7#8) := by decide

theorem test_ldReg : regs (run 0x8010 (start 0x01#8 0x99#8 5#8)) = (0x99#8, 0x99#8, 5#8) := by decide

theorem test_orReg_keeps_VF : regs (run 0x8011 (start 0x55#8 0xAA#8 5#8)) = (0xFF#8, 0xAA#8, 5#8) := by decide

theorem test_andReg : regs (run 0x8012 (start 0x5F#8 0xAF#8 5#8)) = (0x0F#8, 0xAF#8, 5#8) := by decide

theorem test_xorReg : regs (run 0x8013 (start 0x5F#8 0xAF#8 5#8)) = (0xF0#8, 0xAF#8, 5#8) := by decide

theorem test_addReg_255_and_256 :
    regs (run 0x8014 (start 0x80#8 0x7F#8 9#8)) = (0xFF#8, 0x7F#8, 0#8) ∧
    regs (run 0x8014 (start 0x80#8 0x80#8 9#8)) = (0x00#8, 0x80#8, 1#8) := by decide

theorem test_addReg_into_VF : regs (run 0x8F14 (start 0#8 0x20#8 0xF0#8)) = (0#8, 0x20#8, 0x10#8) := by decide

theorem test_subReg_equal_and_borrow :
    regs (run 0x8015 (start 7#8 7#8 9#8)) = (0#8, 7#8, 0#8) ∧
    regs (run 0x8015 (start 3#8 0x10#8 9#8)) = (0xF3#8, 0x10#8, 0#8) := by decide

theorem test_subReg_no_borrow_and_VF :
    regs (run 0x8015 (start 0x10#8 3#8 9#8)) = (0x0D#8, 3#8, 1#8) ∧
    regs (run 0x8F15 (start 0#8 3#8 5#8)) = (0#8, 3#8, 2#8) := by decide

theorem test_subnReg :
    regs (run 0x8017 (start 3#8 0x10#8 9#8)) = (0x0D#8, 0x10#8, 1#8) ∧
    regs (run 0x8017 (start 0x10#8 3#8 9#8)) = (0xF3#8, 3#8, 0#8) := by decide

theorem test_shr_ignores_y :
    regs (run 0x8016 (start 5#8 0xF0#8 0#8)) = (2#8, 0xF0#8, 1#8) ∧
    regs (run 0x8006 (start 0xFF#8 0#8 9#8)) = (0x7F#8, 0#8, 1#8) := by decide

theorem test_shr_VF : (run 0x8F06 (start 0#8 0#8 7#8)).reg 15#4 = 3#8 := by decide

theorem test_shl :
    regs (run 0x800E (start 0x81#8 0#8 9#8)) = (2#8, 0#8, 1#8) ∧
    regs (run 0x800E (start 0x40#8 0#8 9#8)) = (0x80#8, 0#8, 0#8) := by decide

/-! ### Index register and memory, spec/95 section 2.3 -/

theorem test_ldI : (run 0xAFFF State.reset).i = 0xFFF#16 := by decide

theorem test_addIVx_unmasked_no_flag :
    (run 0xF01E ((index 0xFFF#16 1#8).setReg 15#4 4#8)).i = 0x1000#16 ∧
    (run 0xF01E ((index 0xFFF#16 1#8).setReg 15#4 4#8)).reg 15#4 = 4#8 ∧
    (run 0xF01E (index 0xFFFF#16 2#8)).i = 0x0001#16 := by decide

theorem test_ldFVx_whole_byte :
    (run 0xF029 (index 0#16 0x0A#8)).i = 0x82#16 ∧ (run 0xF029 (index 0#16 0x10#8)).i = 0xA0#16 ∧
    (run 0xF029 (index 0#16 0xFF#8)).i = 0x54B#16 := by decide

theorem test_ldBVx_wraps :
    let t := run 0xF033 (index 0xFFE#16 123#8)
    t.memRead 0xFFE = 1#8 ∧ t.memRead 0xFFF = 2#8 ∧ t.memRead 0x000 = 3#8 ∧ t.i = 0xFFE#16 := by decide

theorem test_ldBVx_high_index_bits :
    let t := run 0xF033 (index 0x1300#16 99#8)
    t.memRead 0x300 = 0#8 ∧ t.memRead 0x301 = 9#8 ∧ t.memRead 0x302 = 9#8 ∧ t.i = 0x1300#16 := by decide

theorem test_ldIndVx_inclusive_and_wraps :
    let t := run 0xF155 (((index 0xFFF#16 0xAA#8).setReg 1#4 0xBB#8).memWrite 1 0x77#8)
    t.memRead 0xFFF = 0xAA#8 ∧ t.memRead 0x000 = 0xBB#8 ∧ t.memRead 0x001 = 0x77#8 ∧ t.i = 0xFFF#16 := by decide

theorem test_ldVxInd_inclusive :
    let t := run 0xF265 (((((index 0x300#16 0#8).setReg 3#4 0x77#8).memWrite 0x300 1#8).memWrite 0x301 2#8).memWrite
      0x302 3#8)
    t.reg 0#4 = 1#8 ∧ t.reg 1#4 = 2#8 ∧ t.reg 2#4 = 3#8 ∧ t.reg 3#4 = 0x77#8 ∧ t.i = 0x300#16 := by decide

theorem test_ldVxInd_glyph : (run 0xF065 (index 0x050#16 0#8)).reg 0#4 = 0xF0#8 := by decide

/-! ### Random, timers, input, spec/95 sections 2.4 to 2.6 -/

theorem test_rnd :
    (run 0xC00F (injectRandom 0x5A#8 (start 0x33#8 0#8 0x44#8))).reg 0#4 = 0x0A#8 ∧
    (run 0xCFF0 (injectRandom 0x5A#8 (start 0x33#8 0#8 0x44#8))).reg 15#4 = 0x50#8 := by decide

theorem test_rnd_consumes_one_byte :
    (run 0xC000 (injectRandom 0x11#8 (injectRandom 0x5A#8 State.reset))).rndIn = [0x11#8] := by decide

theorem test_ldVxDT_before_decrement :
    let t := run 0xF007 ((State.reset.setDt 200#8).setSt 3#8)
    t.reg 0#4 = 0xC8#8 ∧ t.dt = 199#8 ∧ t.st = 2#8 := by decide

theorem test_ldDTVx_decremented_in_its_cycle :
    (run 0xF015 ((start 4#8 0#8 0#8).setDt 9#8)).dt = 3#8 ∧ (run 0xF015 (start 0#8 0#8 0#8)).dt = 0#8 := by decide

theorem test_ldSTVx :
    (run 0xF018 (start 255#8 0#8 0#8)).st = 254#8 ∧ (run 0xF018 (start 2#8 0#8 0#8)).dt = 0#8 := by decide

theorem test_ldVxK_rewinds :
    let t := run 0xF30A ((State.reset.setReg 3#4 0x77#8).setDt 2#8)
    t.pc = 0x200#16 ∧ t.reg 3#4 = 0x77#8 ∧ t.dt = 1#8 ∧ t.status = .ok := by decide

theorem test_ldVxK_lowest_key :
    let t := run 0xF30A (setKey 7#4 true (setKey 2#4 true State.reset))
    t.pc = 0x202#16 ∧ t.reg 3#4 = 2#8 := by decide

/-! ### Display, spec/95 section 2.7 -/

theorem test_cls_keeps_VF :
    let t := run 0x00E0 (sprite 0#8 0#8 0#8 1#8 (BitVec.twoPow 2048 2047))
    t.pixel 2047 = false ∧ t.reg 15#4 = 1#8 := by decide

theorem test_drw_collision :
    let t := run 0xD011 (sprite 0xC0#8 0#8 0#8 0#8 1#2048)
    t.pixel 0 = false ∧ t.pixel 1 = true ∧ t.pixel 2 = false ∧ t.reg 15#4 = 1#8 := by decide

theorem test_drw_wraps_and_reads_VF_first :
    let t := run 0xDF01 (sprite 0x81#8 33#8 0#8 63#8 0#2048)
    t.pixel 127 = true ∧ t.pixel 70 = true ∧ t.reg 15#4 = 0#8 := by decide

/-! ### Unrecognized words, spec/95 section 2.8 -/

theorem test_unrecognized_advances :
    let t := run 0xB300 ((State.reset.setDt 2#8).setSt 1#8)
    t.pc = 0x202#16 ∧ t.dt = 1#8 ∧ t.st = 0#8 ∧ t.ir = 0xB300#16 ∧
      t.status = .unrecognizedInstruction 0xB300#16 0x200#16 := by decide

theorem test_strictStep_faults :
    strictStep (State.reset.withFetchWord 16 0x0000) = .fault (.unrecognizedInstruction 0x0000#16 0x200#16) := rfl

/-- 93_implementation_defined.md U14: with the parameter on a host's run jumps to `nnn + V[0]`, status Ok. -/
theorem test_classB_on_jumps :
    (match hostRun true [.cycle] (((start 5#8 0#8 9#8).setDt 2#8).withFetchWord 16 0xBFFE) with
      | .next t => (t.pc, t.dt, t.reg 15#4, t.status)
      | _ => (0#16, 0#8, 0#8, .ok)) = (0x1003#16, 1#8, 9#8, .ok) := by decide

/-! ### Reset and the host, spec/95 sections S1, S2, S9 -/

theorem test_reset_glyphs :
    State.reset.memRead 0x50 = 0xF0#8 ∧ State.reset.memRead 0x55 = 0x20#8 ∧ State.reset.memRead 0x9F = 0x80#8 := by
  decide

theorem test_initMachine_memory_edges (g m : Nat → Byte) (s : State) :
    resetContents g m 0x4F = m 0x4F ∧ resetContents g m 0x50 = g 0 ∧ resetContents g m 0x9F = g 79 ∧
      resetContents g m 0xA0 = m 0xA0 ∧ (initMachine g m 0#16 s).pc = 0x200#16 := ⟨rfl, rfl, rfl, rfl, rfl⟩

theorem test_load_then_cycle :
    let t := (State.reset.writeBytes 0x200 [0x60#8, 0x0A#8]).afterCycle
    t.reg 0#4 = 0x0A#8 ∧ t.pc = 0x202#16 ∧ t.status = .ok := by decide

theorem test_load_oversize_is_capacity_error :
    loadProgram (List.replicate 3585 0#8) State.reset = .fault (.loadCapacity 3585) := by
  simp [loadProgram, imageWellFormed, Config.maxProgram]

theorem test_setKey_release : (setKey 5#4 false (setKey 5#4 true (setKey 6#4 true State.reset))).key = 0x40#16 := by
  decide

theorem test_hostRun_key_ends_wait :
    (match hostRun extJpV0 [.cycle, .setKey 11#4 true, .setKey 12#4 true, .cycle]
        (State.reset.withFetchWord 16 0xF00A) with
      | .next t => (t.reg 0#4, t.pc)
      | _ => (0#8, 0#16)) = (0x0B#8, 0x202#16) := by decide

/-! ### Witnesses: every statement's hypotheses are met -/

/-- `JP 0x200` at 0x200, both timers running. -/
def looping : State := ((State.reset.setDt 5#8).setSt 1#8).withFetchWord 16 0x1200

theorem witness_EncodeInvertsDecode : decodeWord 0xD125#16 = .ok (.drw 1#4 2#4 5#4) := rfl

theorem witness_StepRunsDecodedInstruction : decodeWord (looping.wordAt looping.pc) = .ok (.jp 0x200#12) := rfl

theorem witness_UnrecognizedWordOnlyAdvances :
    decodeWord ((State.reset.withFetchWord 16 0xB123).wordAt 0x200#16) = .error .classB := rfl

theorem witness_DelayTimerCountsCycles :
    ∀ j < 2, ∀ x, (looping.afterCycles j).nextInstr? ≠ some (.ldDTVx x) := by
  have h0 : (looping.afterCycles 0).nextInstr? = some (.jp 0x200#12) := by decide
  have h1 : (looping.afterCycles 1).nextInstr? = some (.jp 0x200#12) := by decide
  intro j hj x
  obtain rfl | rfl : j = 0 ∨ j = 1 := by omega
  · rw [h0]; exact fun h => nomatch h
  · rw [h1]; exact fun h => nomatch h

theorem witness_IndexHighBitsAreUnobservable :
    (0xF300#16 : Word).toNat % 4096 = (index 0x300#16 0#8).i.toNat % 4096 := by
  decide

theorem witness_CycleKeepsMemoryCanonical :
    looping.mem.wf = true ∧ (run 0xF033 (index 0xFFE#16 123#8)).mem.wf = true := by decide

theorem witness_LaunchMemoryIsCanonical :
    ∃ t, State.reset.mem.wf = true ∧ loadProgram [0x12#8, 0x00#8] State.reset = .next t := ⟨_, by decide, rfl⟩

/-- Program P7 of spec/95, its fourth cycle. -/
def selfModifying : State :=
  (((start 0x12#8 0x0C#8 0#8).setI 0x208#16).setPc 0x206#16).withFetchWord 16 0xF155

theorem witness_NextFetchSeesStore :
    selfModifying.nextInstr? = some (.ldIndVx 1#4) ∧ 0 + 1 ≤ (1#4).toNat ∧
      cellOf (selfModifying.ea 0) = cellOf (selfModifying.pc + 2#16).toNat := by decide

theorem test_next_fetch_sees_store : selfModifying.afterCycle.afterCycle.pc = 0x20C#16 := by decide

theorem witness_LdVxDTReadsBeforeDecrement :
    ((State.reset.setDt 1#8).withFetchWord 16 0xF007).nextInstr? = some (.ldVxDT 0#4) := by decide

theorem witness_KeyWaitCapturesLowestKey :
    (15 < 16 ∧ (0x8000#16).getLsbD 15 = true ∧ ∀ j < 15, (0x8000#16).getLsbD j = false) ∧
      (0x8001#16).getLsbD 0 = true := by decide

theorem witness_KeyWaitRewinds :
    (State.reset.withFetchWord 16 0xF30A).nextInstr? = some (.ldVxK 3#4) ∧
      (State.reset.withFetchWord 16 0xF30A).key = 0#16 := by decide

theorem witness_RndMasksOneDraw :
    State.reset.rndIn = [] ∧ (injectRandom 0x5A#8 State.reset).rndIn = 0x5A#8 :: [] := by decide

/-- A set bit of the sprite, its first and its last column, and the rows past the sprite. -/
theorem witness_DrawComplementsDestinations :
    (sprite 0x81#8 0#8 0#8 0#8 0#2048).spriteSet 1 0 0 ∧ (sprite 0x81#8 0#8 0#8 0#8 0#2048).spriteSet 1 0 7 ∧
      ¬ (sprite 0x81#8 0#8 0#8 0#8 0#2048).spriteSet 1 0 1 ∧
      ∀ row col, ¬ (sprite 0x81#8 0#8 0#8 0#8 0#2048).spriteSet 0 row col := by
  refine ⟨⟨by decide, by decide, by decide⟩, ⟨by decide, by decide, by decide⟩, fun h => ?_, fun _ _ h => ?_⟩
  · exact absurd h.2.2 (by decide)
  · exact absurd h.1 (Nat.not_lt_zero _)

theorem witness_LdBStoresDigits :
    ∀ k < 3, (0x303 : Nat) ≠ cellOf ((index 0x300#16 0#8).ea k) := by decide

theorem witness_BlockStoreWritesRegisters :
    (15#4 : Nibble).toNat ≤ (15#4 : Nibble).toNat ∧
      ∀ k ≤ (15#4 : Nibble).toNat, (0x310 : Nat) ≠ cellOf ((index 0x300#16 0#8).ea k) := by decide

theorem witness_BlockLoadReadsRegisters :
    (2#4 : Nibble).toNat ≤ (2#4 : Nibble).toNat ∧ ¬ (3#4 : Nibble).toNat ≤ (2#4 : Nibble).toNat := by decide

theorem witness_CompareSkips :
    (start 7#8 7#8 0#8).reg 0#4 = (start 7#8 7#8 0#8).reg 1#4 ∧
      (start 7#8 8#8 0#8).reg 0#4 ≠ (start 7#8 8#8 0#8).reg 1#4 := by decide

theorem witness_ResetLeavesParameters :
    ((0x4F : Nat) < 4096 ∧ 0x4F < 0x50) ∧ ((0xA0 : Nat) < 4096 ∧ 0xA0 ≤ 0xA0) ∧ ((0xFFF : Nat) < 4096 ∧ 0xA0 ≤ 0xFFF) := by
  decide

theorem witness_ResetStateIsDefaultReset :
    ∃ t, initMachine (fun k => glyphTable.getD k 0#8) Config.memReset 0#16 State.reset = t := ⟨_, rfl⟩

theorem witness_LoadInstallsProgram :
    (List.replicate 3584 0#8 : List Byte).length ≤ 3584 ∧ 3583 < (List.replicate 3584 0#8 : List Byte).length ∧
      ([] : List Byte).length ≤ 3584 := by simp

theorem witness_LoadRejectsOversize : 3584 < (List.replicate 3585 0#8 : List Byte).length := by simp

theorem witness_LaunchFetchesImageStart : (List.replicate 3582 0#8 : List Byte).length ≤ 3582 := by simp

theorem witness_SetKeyWritesOneKey : (14#4 : Nibble) ≠ 15#4 := by decide

theorem witness_HostReadsState : (63 : Nat) < 64 ∧ (31 : Nat) < 32 := by decide

theorem witness_SelfJumpIsStable : looping.atSelfJump := ⟨0x200#12, by decide, by decide⟩

theorem witness_ClassBFollowsItsParameter :
    fieldClass ((State.reset.withFetchWord 16 0xB300).wordAt 0x200#16) = 0xB#4 ∧
      fieldClass (looping.wordAt looping.pc) ≠ 0xB#4 := by decide

end Sys2Proof.Tests
end

section
/-! PROOF. The family 00_scope.md: `State.reset` is reset at the default parameters, and the cycle follows EXT_JP_V0
on class B only. -/

namespace Sys2Proof.Machine

/-! ### The default parameters of reset -/

/-- The default glyph table has the 80 bytes of R70. -/
theorem length_glyphTable : glyphTable.length = Config.glyphBytes := rfl

/-- An unlisted cell reads as reset leaves it for the default glyph table and the free MEM_RESET (R39). -/
theorem Memory.unlisted_eq_resetContents (a : Nat) :
    Memory.unlisted a = resetContents (fun k => glyphTable.getD k 0#8) Config.memReset a := by
  have hlen := length_glyphTable
  unfold Memory.unlisted Memory.resetByte? resetContents
  by_cases hlow : Config.glyphBase ≤ a
  · by_cases hhigh : a < Config.glyphBase + Config.glyphBytes
    · have hin : a - Config.glyphBase < glyphTable.length := by omega
      simp [hlow, hhigh, hin]
    · have hout : glyphTable.length ≤ a - Config.glyphBase := by omega
      simp [hlow, hhigh, hout]
  · simp [hlow]

/-- In the reset state nothing is listed. -/
theorem State.memRead_reset (a : Nat) : State.reset.memRead a = Memory.unlisted (cellOf a) := rfl

theorem memRead_initMachine (g m : Nat → Byte) (ir : Word) (s : State) (a : Nat) :
    (initMachine g m ir s).memRead a = resetContents g m (cellOf a) :=
  read_initMachine g m ir s (cellOf a) (cellOf_lt a)

/-- Settles O52: with nothing listed a cell reads its default content, which `initMachine` writes out. -/
theorem resetStateIsDefaultReset : Obligations.ResetStateIsDefaultReset := by
  unfold Obligations.ResetStateIsDefaultReset
  rintro t rfl
  refine ⟨fun a => ?_, rfl⟩
  rw [State.memRead_reset, memRead_initMachine, Memory.unlisted_eq_resetContents]

/-! ### EXT_JP_V0 -/

/-- No row of R95 has class B (R98). -/
theorem decodeWord_classB {w : Word} (h : fieldClass w = 0xB#4) : decodeWord w = .error .classB := by
  simp [decodeWord, h]

/-- Outside class B the cycle does not depend on EXT_JP_V0 (R98). -/
theorem cycle_of_not_classB (ext : Bool) {s : State} (h : fieldClass (s.wordAt s.pc) ≠ 0xB#4) :
    cycle ext s = step s := by
  cases hd : decodeWord s.fetch.ir with
  | ok i => rw [step, cycle_of_ok hd, cycle_of_ok hd]
  | error r =>
    rw [step, cycle_of_error hd, cycle_of_error hd, State.unrecognized_of_not_classB s.fetch ext h]

/-- The state a class-B word leaves where EXT_JP_V0 is on: the jump of U14. -/
def State.afterJumpV0 (s : State) : State :=
  (s.fetch.setPc ((fieldNNN s.fetch.ir).setWidth 16 + (s.fetch.reg 0#4).setWidth 16)).endCycle .ok

theorem State.afterJumpV0_pc (s : State) :
    s.afterJumpV0.pc.toNat = ((fieldNNN (s.wordAt s.pc)).toNat + (s.reg 0#4).toNat) % 65536 := by
  have hpc : s.afterJumpV0.pc = (fieldNNN (s.wordAt s.pc)).setWidth 16 + (s.reg 0#4).setWidth 16 := rfl
  rw [hpc]
  bv_omega

/-- The jump changes `IR`, `pc`, the timers and the status, nothing else. -/
theorem State.afterJumpV0_frame (s : State) :
    s.afterJumpV0 = { s with
      ir := s.wordAt s.pc, pc := s.afterJumpV0.pc, dt := countDown s.dt, st := countDown s.st, status := .ok } := rfl

theorem cycle_on_classB {s : State} (h : fieldClass (s.wordAt s.pc) = 0xB#4) :
    cycle true s = .next s.afterJumpV0 := by
  rw [cycle_of_error (decodeWord_classB h), State.unrecognized_classB s.fetch h, State.afterJumpV0]

/-- With EXT_JP_V0 at its default an unrecognized word is a fault of the run (R250). -/
theorem strictStep_of_error {s : State} {r : Reject} (h : decodeWord s.fetch.ir = .error r) :
    strictStep s = .fault (.unrecognizedInstruction (s.wordAt s.pc) s.pc) := by
  have hstatus : (s.fetch.unrecognized extJpV0).status = .unrecognizedInstruction (s.wordAt s.pc) s.pc := by
    simp [State.unrecognized_off, State.endCycle]
  exact strictCycle_of_unrecognized (cycle_of_error h) hstatus

/-- Settles O60: outside class B the parameter is not read; on class B it picks the jump or the error. -/
theorem classBFollowsItsParameter : Obligations.ClassBFollowsItsParameter := by
  unfold Obligations.ClassBFollowsItsParameter
  refine ⟨fun ext s h => cycle_of_not_classB ext h, fun s h => ⟨?_, rfl, ?_⟩⟩
  · exact ⟨s.afterJumpV0, cycle_on_classB h, strictCycle_of_ok (cycle_on_classB h) rfl,
      s.afterJumpV0_pc, s.afterJumpV0_frame⟩
  · exact strictStep_of_error (decodeWord_classB h)

end Sys2Proof.Machine
end

section
/-! PROOF. The family 10_state.md, its rules: the state an instruction's handler answers, the fields each handler
leaves alone, and the two ways a cycle can go. -/

namespace Sys2Proof.Machine

/-! ### The state a handler answers -/

/-- The state the handler of `i` answers; a handler that stopped would leave the state as it was, and none does
(`exec_eq_next`). -/
def afterExec (i : Instr) (s : State) : State :=
  match exec i s with
  | .next t => t
  | .fault _ => s
  | .refused _ => s

/-- No handler fails (R124). -/
theorem exec_eq_next (i : Instr) (s : State) : exec i s = .next (afterExec i s) := by
  cases i with
  | ldVxK x =>
    rw [afterExec, exec, execLdVxK]
    cases lowestKey s.key <;> rfl
  | _ => rfl

/-- The key wait rewinds `pc` while no key is pressed, else it writes its register (R225). -/
theorem afterExec_ldVxK (x : Nibble) (s : State) :
    afterExec (.ldVxK x) s =
      (lowestKey s.key).elim (s.setPc (s.pc - 2#16)) fun k => s.setReg x (BitVec.ofNat 8 k) := by
  rw [afterExec, exec, execLdVxK]
  cases lowestKey s.key <;> rfl

/-- LD B is three stores at `I`, `I + 1` and `I + 2` (R193). -/
theorem afterExec_ldBVx (x : Nibble) (s : State) :
    afterExec (.ldBVx x) s =
      ((s.memWrite (s.ea 0) (hundreds (s.reg x))).memWrite (s.ea 1) (tens (s.reg x))).memWrite
        (s.ea 2) (ones (s.reg x)) := rfl

/-! ### What each handler leaves alone -/

/-- From `s` to `t` only the fields that `i` is listed as writing change (10_state.md section 1). -/
def Frame (s t : State) : Instr → Prop
  | .jp _ | .seImm _ _ | .sneImm _ _ | .seReg _ _ | .sneReg _ _ | .skp _ | .sknp _ => t = { s with pc := t.pc }
  | .ret => t = { s with pc := t.pc, sp := t.sp }
  | .call _ => t = { s with pc := t.pc, sp := t.sp, stack := t.stack }
  | .ldVxK _ => t = { s with pc := t.pc, v := t.v }
  | .ldImm _ _ | .addImm _ _ | .ldReg _ _ | .orReg _ _ | .andReg _ _ | .xorReg _ _ => t = { s with v := t.v }
  | .addReg _ _ | .subReg _ _ | .subnReg _ _ | .shr _ _ | .shl _ _ => t = { s with v := t.v }
  | .ldVxDT _ | .ldVxInd _ => t = { s with v := t.v }
  | .rnd _ _ => t = { s with v := t.v, rndIn := t.rndIn, draws := t.draws }
  | .drw _ _ _ => t = { s with v := t.v, fb := t.fb }
  | .cls => t = { s with fb := t.fb }
  | .ldI _ | .addIVx _ | .ldFVx _ => t = { s with i := t.i }
  | .ldBVx _ | .ldIndVx _ => t = { s with mem := t.mem }
  | .ldDTVx _ => t = { s with dt := t.dt }
  | .ldSTVx _ => t = { s with st := t.st }

theorem State.skipIf_frame (s : State) (c : Bool) : s.skipIf c = { s with pc := (s.skipIf c).pc } := by
  rw [State.skipIf_eq]
  rfl

theorem afterExec_frame (i : Instr) (s : State) : Frame s (afterExec i s) i := by
  cases i with
  | seImm _ _ | sneImm _ _ | seReg _ _ | sneReg _ _ | skp _ | sknp _ => exact s.skipIf_frame _
  | ldIndVx x => exact s.storeBlock_frame _
  | ldVxInd x => exact s.loadBlock_frame _
  | ldVxK x =>
    rw [afterExec_ldVxK]
    cases lowestKey s.key <;> rfl
  | _ => rfl

theorem afterExec_stack (i : Instr) (s : State) :
    (afterExec i s).stack = s.stack ∨ ∃ nnn, i = .call nnn := by
  have h := afterExec_frame i s
  cases i with
  | call nnn => exact .inr ⟨nnn, rfl⟩
  | _ => exact .inl (congrArg State.stack h :)

theorem afterExec_sp (i : Instr) (s : State) :
    (afterExec i s).sp = s.sp ∨ i = .ret ∨ ∃ nnn, i = .call nnn := by
  have h := afterExec_frame i s
  cases i with
  | ret => exact .inr (.inl rfl)
  | call nnn => exact .inr (.inr ⟨nnn, rfl⟩)
  | _ => exact .inl (congrArg State.sp h :)

/-- LD I, ADD I and LD F, the instructions of R27 that write `I`. -/
def WritesIndex (i : Instr) : Prop := (∃ nnn, i = .ldI nnn) ∨ ∃ x, i = .addIVx x ∨ i = .ldFVx x

theorem afterExec_i (i : Instr) (s : State) : (afterExec i s).i = s.i ∨ WritesIndex i := by
  have h := afterExec_frame i s
  cases i with
  | ldI nnn => exact .inr (.inl ⟨nnn, rfl⟩)
  | addIVx x => exact .inr (.inr ⟨x, .inl rfl⟩)
  | ldFVx x => exact .inr (.inr ⟨x, .inr rfl⟩)
  | _ => exact .inl (congrArg State.i h :)

theorem afterExec_fb (i : Instr) (s : State) :
    (afterExec i s).fb = s.fb ∨ i = .cls ∨ ∃ x y n, i = .drw x y n := by
  have h := afterExec_frame i s
  cases i with
  | cls => exact .inr (.inl rfl)
  | drw x y n => exact .inr (.inr ⟨x, y, n, rfl⟩)
  | _ => exact .inl (congrArg State.fb h :)

theorem afterExec_mem (i : Instr) (s : State) :
    (afterExec i s).mem = s.mem ∨ (∃ x, i = .ldBVx x) ∨ ∃ x, i = .ldIndVx x := by
  have h := afterExec_frame i s
  cases i with
  | ldBVx x => exact .inr (.inl ⟨x, rfl⟩)
  | ldIndVx x => exact .inr (.inr ⟨x, rfl⟩)
  | _ => exact .inl (congrArg State.mem h :)

theorem afterExec_key (i : Instr) (s : State) : (afterExec i s).key = s.key := by
  have h := afterExec_frame i s
  cases i <;> exact (congrArg State.key h :)

/-- Only RND draws from the random source (R211). -/
theorem afterExec_draws {i : Instr} (hi : ∀ x kk, i ≠ .rnd x kk) (s : State) :
    (afterExec i s).draws = s.draws ∧ (afterExec i s).rndIn = s.rndIn := by
  have h := afterExec_frame i s
  cases i with
  | rnd x kk => exact absurd rfl (hi x kk)
  | _ => exact ⟨(congrArg State.draws h :), (congrArg State.rndIn h :)⟩

/-! ### The two ways a cycle goes -/

/-- A cycle finds an unrecognized word, or runs its instruction's handler on the fetched state (R120 to R129). -/
theorem step_of_nextInstr? (s : State) :
    (s.nextInstr? = none ∧
      step s = .next (s.fetch.endCycle (.unrecognizedInstruction s.fetch.ir (s.fetch.pc - 2#16)))) ∨
    ∃ i, s.nextInstr? = some i ∧ step s = .next ((afterExec i s.fetch).endCycle .ok) := by
  cases hd : decodeWord s.fetch.ir with
  | error r =>
    have hn : decodeWord (s.wordAt s.pc) = .error r := hd
    exact .inl ⟨by rw [State.nextInstr?, hn], cycle_of_error hd⟩
  | ok i =>
    have hn : decodeWord (s.wordAt s.pc) = .ok i := hd
    refine .inr ⟨i, by rw [State.nextInstr?, hn], ?_⟩
    rw [step, cycle_of_ok hd, exec_eq_next, finishCycle_next]

theorem step_of_none {s : State} (h : s.nextInstr? = none) :
    step s = .next (s.fetch.endCycle (.unrecognizedInstruction s.fetch.ir (s.fetch.pc - 2#16))) := by
  obtain ⟨-, hs⟩ | ⟨i, hi, -⟩ := step_of_nextInstr? s
  · exact hs
  · rw [h] at hi; cases hi

theorem step_of_some {s : State} {i : Instr} (h : s.nextInstr? = some i) :
    step s = .next ((afterExec i s.fetch).endCycle .ok) := by
  obtain ⟨hn, -⟩ | ⟨j, hj, hs⟩ := step_of_nextInstr? s
  · rw [h] at hn; cases hn
  · rw [h] at hj; cases hj; exact hs

/-! ### The end of a cycle, field by field -/

@[simp] theorem State.endCycle_pc (s : State) (c : Status) : (s.endCycle c).pc = s.pc := rfl
@[simp] theorem State.endCycle_i (s : State) (c : Status) : (s.endCycle c).i = s.i := rfl
@[simp] theorem State.endCycle_stack (s : State) (c : Status) : (s.endCycle c).stack = s.stack := rfl
@[simp] theorem State.endCycle_sp (s : State) (c : Status) : (s.endCycle c).sp = s.sp := rfl
@[simp] theorem State.endCycle_fb (s : State) (c : Status) : (s.endCycle c).fb = s.fb := rfl
@[simp] theorem State.endCycle_key (s : State) (c : Status) : (s.endCycle c).key = s.key := rfl
@[simp] theorem State.endCycle_v (s : State) (c : Status) : (s.endCycle c).v = s.v := rfl
@[simp] theorem State.endCycle_dt (s : State) (c : Status) : (s.endCycle c).dt = countDown s.dt := rfl
@[simp] theorem State.endCycle_st (s : State) (c : Status) : (s.endCycle c).st = countDown s.st := rfl
@[simp] theorem State.endCycle_ir (s : State) (c : Status) : (s.endCycle c).ir = s.ir := rfl
@[simp] theorem State.endCycle_status (s : State) (c : Status) : (s.endCycle c).status = c := rfl
@[simp] theorem State.endCycle_rndIn (s : State) (c : Status) : (s.endCycle c).rndIn = s.rndIn := rfl
@[simp] theorem State.endCycle_draws (s : State) (c : Status) : (s.endCycle c).draws = s.draws := rfl
@[simp] theorem State.reg_endCycle (s : State) (c : Status) (r : Nibble) : (s.endCycle c).reg r = s.reg r := rfl

end Sys2Proof.Machine
end

section
/-! PROOF. The family 10_state.md: no cycle reads bits 15:12 of `I`, the old `IR` or the old status, and every cycle
keeps memory canonical. -/

namespace Sys2Proof.Machine

/-! ### Bits 15:12 of `I` (R27, decision D13) -/

theorem State.memWrite_setI {s : State} {a a' : Nat} (h : cellOf a = cellOf a') (j : Word) (b : Byte) :
    (s.setI j).memWrite a b = (s.memWrite a' b).setI j :=
  congrArg (fun q => (s.setMem (s.mem.write q b)).setI j) h

theorem State.skipIf_setI (s : State) (j : Word) (c : Bool) : (s.setI j).skipIf c = (s.skipIf c).setI j := by
  cases c <;> rfl

section
variable {s : State} {j : Word} (hj : cellOf j.toNat = cellOf s.i.toNat)
include hj

/-- An index register that addresses the same cell addresses the same cells at every offset (R62). -/
theorem State.cellOf_ea_setI (k : Nat) : cellOf ((s.setI j).ea k) = cellOf (s.ea k) :=
  Nat.ModEq.add_right k hj

theorem State.memRead_ea_setI (k : Nat) : (s.setI j).memRead ((s.setI j).ea k) = s.memRead (s.ea k) :=
  congrArg s.mem.read (State.cellOf_ea_setI hj k)

theorem State.storeOne_setI (k : Nat) : (s.setI j).storeOne k = (s.storeOne k).setI j :=
  State.memWrite_setI (State.cellOf_ea_setI hj k) j _

theorem State.loadOne_setI (k : Nat) : (s.setI j).loadOne k = (s.loadOne k).setI j :=
  congrArg (fun b => (s.setReg (BitVec.ofNat 4 k) b).setI j) (State.memRead_ea_setI hj k)

/-- A block of accesses that each leave `I` alone, and each commute with other high bits of it, commutes with them. -/
theorem State.foldl_setI {f : State → Nat → State}
    (hf : ∀ {t : State}, cellOf j.toNat = cellOf t.i.toNat → ∀ k, f (t.setI j) k = (f t k).setI j)
    (hi : ∀ t k, (f t k).i = t.i) (ks : List Nat) : ks.foldl f (s.setI j) = (ks.foldl f s).setI j := by
  induction ks generalizing s with
  | nil => rfl
  | cons k ks ih =>
    rw [List.foldl_cons, List.foldl_cons, hf hj]
    exact ih (by rw [hi]; exact hj)

theorem State.blit_setI (sx sy : Byte) (n : Nat) : (s.setI j).blit sx sy n = s.blit sx sy n := by
  simp only [State.blit, State.memRead_ea_setI hj, State.setI_fb]

end

/-- `u` is `t` with other high bits of `I`. -/
def SameButIndexHigh (t u : State) : Prop := u = { t with i := u.i } ∧ u.i.toNat % 4096 = t.i.toNat % 4096

/-- Replacing `I` by a register that addresses the same cell, in a state that has kept `I`. -/
theorem sameButIndexHigh_setI {s t : State} {j : Word} (hj : cellOf j.toNat = cellOf s.i.toNat) (ht : t.i = s.i) :
    SameButIndexHigh t (t.setI j) :=
  ⟨rfl, by rw [ht]; exact hj⟩

theorem SameButIndexHigh.endCycle {t u : State} (h : SameButIndexHigh t u) (c : Status) :
    SameButIndexHigh (t.endCycle c) (u.endCycle c) := by
  obtain ⟨hu, hi⟩ := h
  exact ⟨congrArg (fun w => w.endCycle c) hu, hi⟩

/-- A handler that does not write `I` carries other high bits of it along and does everything else the same. -/
theorem afterExec_setI {s : State} {j : Word} (hj : cellOf j.toNat = cellOf s.i.toNat) {i : Instr}
    (hi : ¬WritesIndex i) : afterExec i (s.setI j) = (afterExec i s).setI j := by
  cases i with
  | ldI nnn => exact absurd (.inl ⟨nnn, rfl⟩) hi
  | addIVx x => exact absurd (.inr ⟨x, .inl rfl⟩) hi
  | ldFVx x => exact absurd (.inr ⟨x, .inr rfl⟩) hi
  | seImm _ _ | sneImm _ _ | seReg _ _ | sneReg _ _ | skp _ | sknp _ => exact s.skipIf_setI j _
  | drw x y n =>
    exact congrArg (fun p : Raster => ((s.setFb p.fb).setReg flagReg (flagByte p.hit)).setI j)
      (State.blit_setI hj (s.reg x) (s.reg y) n.toNat)
  | ldVxK x =>
    rw [afterExec_ldVxK, afterExec_ldVxK, State.setI_key]
    cases lowestKey s.key <;> rfl
  | ldBVx x =>
    rw [afterExec_ldBVx, afterExec_ldBVx, State.memWrite_setI (State.cellOf_ea_setI hj 0),
      State.memWrite_setI (State.cellOf_ea_setI hj 1), State.memWrite_setI (State.cellOf_ea_setI hj 2)]
    rfl
  | ldIndVx x => exact State.foldl_setI hj State.storeOne_setI (fun _ _ => rfl) _
  | ldVxInd x => exact State.foldl_setI hj State.loadOne_setI (fun _ _ => rfl) _
  | _ => rfl

/-- Addition mod 65536 of two index registers that address the same cell. -/
theorem toNat_add_mod_memSize {a b : Word} (h : cellOf a.toNat = cellOf b.toNat) (d : Word) :
    (a + d).toNat % 4096 = (b + d).toNat % 4096 := by
  simp only [cellOf, Config.memSize] at h
  rw [BitVec.toNat_add, BitVec.toNat_add]
  omega

/-- An instruction that writes `I` makes the low 12 bits of its new value from the low 12 bits of the old. -/
theorem afterExec_sameButIndexHigh {s : State} {j : Word} (hj : cellOf j.toNat = cellOf s.i.toNat) (i : Instr) :
    SameButIndexHigh (afterExec i s) (afterExec i (s.setI j)) := by
  by_cases hi : WritesIndex i
  · obtain ⟨nnn, rfl⟩ | ⟨x, rfl | rfl⟩ := hi
    · exact ⟨rfl, rfl⟩
    · exact ⟨rfl, toNat_add_mod_memSize hj _⟩
    · exact ⟨rfl, rfl⟩
  · rw [afterExec_setI hj hi]
    exact sameButIndexHigh_setI hj ((afterExec_i i s).resolve_right hi)

/-- Settles O21: the handler addresses the same cells, and ADD I adds mod 65536, which keeps sums mod 4096. -/
theorem indexHighBitsAreUnobservable : Obligations.IndexHighBitsAreUnobservable := by
  unfold Obligations.IndexHighBitsAreUnobservable
  intro s j hj
  obtain ⟨hn, hs⟩ | ⟨i, hn, hs⟩ := step_of_nextInstr? s
  · exact ⟨_, _, hs, step_of_none (s := s.setI j) hn, (sameButIndexHigh_setI (t := s.fetch) hj rfl).endCycle _⟩
  · exact ⟨_, _, hs, step_of_some (s := s.setI j) hn,
      (afterExec_sameButIndexHigh (s := s.fetch) hj i).endCycle _⟩

/-! ### The old `IR` and the old status (R34, R128) -/

theorem State.skipIf_setStatus (s : State) (c : Status) (b : Bool) :
    (s.setStatus c).skipIf b = (s.skipIf b).setStatus c := by
  cases b <;> rfl

theorem State.storeBlock_setStatus (s : State) (c : Status) (ks : List Nat) :
    ks.foldl State.storeOne (s.setStatus c) = (ks.foldl State.storeOne s).setStatus c :=
  List.foldl_hom (fun t : State => t.setStatus c) fun _ _ => rfl

theorem State.loadBlock_setStatus (s : State) (c : Status) (ks : List Nat) :
    ks.foldl State.loadOne (s.setStatus c) = (ks.foldl State.loadOne s).setStatus c :=
  List.foldl_hom (fun t : State => t.setStatus c) fun _ _ => rfl

/-- A handler carries the status along and does everything else the same. -/
theorem afterExec_setStatus (i : Instr) (s : State) (c : Status) :
    afterExec i (s.setStatus c) = (afterExec i s).setStatus c := by
  cases i with
  | seImm _ _ | sneImm _ _ | seReg _ _ | sneReg _ _ | skp _ | sknp _ => exact s.skipIf_setStatus c _
  | ldIndVx x => exact s.storeBlock_setStatus c _
  | ldVxInd x => exact s.loadBlock_setStatus c _
  | ldVxK x =>
    rw [afterExec_ldVxK, afterExec_ldVxK, State.setStatus_key]
    cases lowestKey s.key <;> rfl
  | _ => rfl

/-- Settles O20: the fetch overwrites `IR`, the end of the cycle the status, and no handler reads either. -/
theorem cycleIgnoresIrAndStatus : Obligations.CycleIgnoresIrAndStatus := by
  unfold Obligations.CycleIgnoresIrAndStatus
  intro s w c
  have hfetch : State.fetch { s with ir := w, status := c } = s.fetch.setStatus c := rfl
  obtain ⟨hn, hs⟩ | ⟨i, hn, hs⟩ := step_of_nextInstr? s
  · rw [hs, step_of_none (s := { s with ir := w, status := c }) hn, hfetch]
    rfl
  · rw [hs, step_of_some (s := { s with ir := w, status := c }) hn, hfetch, afterExec_setStatus]
    rfl

/-! ### Canonical memory (log entry 21) -/

theorem afterExec_mem_wf (i : Instr) (s : State) (h : s.mem.wf = true) : (afterExec i s).mem.wf = true := by
  obtain hm | ⟨x, rfl⟩ | ⟨x, rfl⟩ := afterExec_mem i s
  · rw [hm]; exact h
  · rw [afterExec_ldBVx]
    exact State.memWrite_wf _ _ _ (State.memWrite_wf _ _ _ (State.memWrite_wf _ _ _ h))
  · exact s.storeBlock_wf _ h

/-- Settles O22: a cycle touches memory in its handler only, and there by stores, each of which keeps the form. -/
theorem cycleKeepsMemoryCanonical : Obligations.CycleKeepsMemoryCanonical := by
  unfold Obligations.CycleKeepsMemoryCanonical
  intro s t hwf hstep
  obtain ⟨-, hs⟩ | ⟨i, -, hs⟩ := step_of_nextInstr? s
  · obtain rfl := Host.Outcome.next.inj (hstep.symm.trans hs)
    exact hwf
  · obtain rfl := Host.Outcome.next.inj (hstep.symm.trans hs)
    exact afterExec_mem_wf i s.fetch hwf

theorem loadProgram_eq_next {bytes : List Byte} {s t : State} (h : loadProgram bytes s = .next t) :
    t = s.writeBytes Config.entry bytes := by
  unfold loadProgram at h
  split at h
  · exact (Host.Outcome.next.inj h).symm
  · cases h

/-- Settles O23: reset builds memory canonical, and the loader stores byte by byte. -/
theorem launchMemoryIsCanonical : Obligations.LaunchMemoryIsCanonical := by
  unfold Obligations.LaunchMemoryIsCanonical
  refine ⟨Memory.wf_nil, initMachine_mem_wf, fun bytes s t hwf hload => ?_⟩
  rw [loadProgram_eq_next hload]
  exact s.writeBytes_wf _ _ hwf

end Sys2Proof.Machine
end

section
/-! PROOF. The family 10_state.md: who writes what, where each instruction leaves `pc`, and the rest of reset. -/

namespace Sys2Proof.Machine

/-! ### Fields one or two instructions write -/

/-- Settles O15: the handlers' frame, since neither the fetch nor the end of a cycle touches the stack or SP. -/
theorem stackChangesOnlyByCallAndRet : Obligations.StackChangesOnlyByCallAndRet := by
  unfold Obligations.StackChangesOnlyByCallAndRet
  intro s
  obtain ⟨-, hs⟩ | ⟨i, hn, hs⟩ := step_of_nextInstr? s
  · exact ⟨_, hs, .inl rfl, .inl rfl⟩
  · simp only [hn, Option.some.injEq]
    exact ⟨_, hs, afterExec_stack i s.fetch, afterExec_sp i s.fetch⟩

/-- Settles O16: the handlers' frame. -/
theorem indexChangesOnlyByItsInstructions : Obligations.IndexChangesOnlyByItsInstructions := by
  unfold Obligations.IndexChangesOnlyByItsInstructions
  intro s
  obtain ⟨-, hs⟩ | ⟨i, hn, hs⟩ := step_of_nextInstr? s
  · exact ⟨_, hs, .inl rfl⟩
  · simp only [hn, Option.some.injEq]
    exact ⟨_, hs, afterExec_i i s.fetch⟩

/-- Settles O17: the handlers' frame. -/
theorem framebufferChangesOnlyByDisplay : Obligations.FramebufferChangesOnlyByDisplay := by
  unfold Obligations.FramebufferChangesOnlyByDisplay
  intro s
  obtain ⟨-, hs⟩ | ⟨i, hn, hs⟩ := step_of_nextInstr? s
  · exact ⟨_, hs, .inl rfl⟩
  · simp only [hn, Option.some.injEq]
    exact ⟨_, hs, afterExec_fb i s.fetch⟩

/-! ### Memory -/

/-- A store at `I + k` changes the cell `(I + k) mod 4096` only (R62). -/
theorem State.read_memWrite_of_ne (s : State) {a q : Nat} (b : Byte) (h : q ≠ cellOf a) :
    (s.memWrite a b).mem.read q = s.mem.read q := by
  rw [State.read_memWrite, if_neg h]

theorem afterExec_ldBVx_read (x : Nibble) (s : State) (q : Nat) :
    (afterExec (.ldBVx x) s).mem.read q = s.mem.read q ∨ ∃ k < 3, q = cellOf (s.ea k) := by
  by_cases hq : ∃ k < 3, q = cellOf (s.ea k)
  · exact .inr hq
  · push Not at hq
    rw [afterExec_ldBVx, State.read_memWrite_of_ne _ _ (hq 2 (by decide)),
      State.read_memWrite_of_ne _ _ (hq 1 (by decide)), State.read_memWrite_of_ne _ _ (hq 0 (by decide))]
    exact .inl rfl

theorem afterExec_ldIndVx_read (x : Nibble) (s : State) (q : Nat) :
    (afterExec (.ldIndVx x) s).mem.read q = s.mem.read q ∨ ∃ k ≤ x.toNat, q = cellOf (s.ea k) := by
  by_cases hq : ∃ k ≤ x.toNat, q = cellOf (s.ea k)
  · exact .inr hq
  · push Not at hq
    have hx : x.toNat + 1 ≤ 16 := x.isLt
    exact .inl ((s.storeBlock_read (x.toNat + 1) hx).2 q fun k hk => hq k (Nat.le_of_lt_succ hk))

/-- Settles O18: a handler stores in memory only for the two listed instructions, and only where they address. -/
theorem memoryChangesOnlyByStores : Obligations.MemoryChangesOnlyByStores := by
  unfold Obligations.MemoryChangesOnlyByStores
  intro s
  obtain ⟨-, hs⟩ | ⟨i, hn, hs⟩ := step_of_nextInstr? s
  · exact ⟨_, hs, fun q => .inl rfl⟩
  · refine ⟨_, hs, fun q => ?_⟩
    obtain hm | ⟨x, rfl⟩ | ⟨x, rfl⟩ := afterExec_mem i s.fetch
    · exact .inl (congrArg (Memory.read · q) hm)
    · exact (afterExec_ldBVx_read x s.fetch q).imp_right fun hk => .inl ⟨x, hn, hk⟩
    · exact (afterExec_ldIndVx_read x s.fetch q).imp_right fun hk => .inr ⟨x, hn, hk⟩

/-! ### The inputs -/

/-- Settles O19: only RND's handler draws, and no handler writes the keys. -/
theorem inputsAreOnlyRead : Obligations.InputsAreOnlyRead := by
  unfold Obligations.InputsAreOnlyRead
  intro s
  obtain ⟨hn, hs⟩ | ⟨i, hn, hs⟩ := step_of_nextInstr? s
  · rw [hn]
    exact ⟨_, hs, rfl, rfl, rfl⟩
  · rw [hn]
    refine ⟨_, hs, afterExec_key i s.fetch, ?_⟩
    have hkeep (hi : ∀ x kk, i ≠ .rnd x kk) : ((afterExec i s.fetch).endCycle .ok).draws = s.draws ∧
        ((afterExec i s.fetch).endCycle .ok).rndIn = s.rndIn := afterExec_draws hi s.fetch
    cases i with
    | rnd x kk => exact ⟨rfl, rfl⟩
    | _ => exact hkeep (by rintro _ _ ⟨⟩)

/-! ### Registers (R22, R26) -/

theorem State.reg_setReg_eq_or (s : State) (x : Nibble) (b : Byte) (r : Nibble) :
    (s.setReg x b).reg r = s.reg r ∨ r = x :=
  (em (r = x)).symm.imp_left (s.reg_setReg_of_ne b)

theorem State.reg_setFlagged_eq_or (s : State) (x : Nibble) (f : Bool) (b : Byte) (r : Nibble) :
    (s.setFlagged x f b).reg r = s.reg r ∨ r = x ∨ r = 15#4 := by
  obtain h | h := (s.setReg flagReg (flagByte f)).reg_setReg_eq_or x b r
  · exact (s.reg_setReg_eq_or flagReg (flagByte f) r).imp h.trans .inr
  · exact .inr (.inl h)

theorem State.reg_loadBlock_eq_or (s : State) (x r : Nibble) :
    ((List.range (x.toNat + 1)).foldl State.loadOne s).reg r = s.reg r ∨ r.toNat ≤ x.toNat := by
  rw [s.loadBlock_reg (x.toNat + 1) x.isLt r]
  by_cases hr : r.toNat < x.toNat + 1
  · exact .inr (Nat.le_of_lt_succ hr)
  · exact .inl (if_neg hr)

/-- Equal register files read alike. -/
theorem State.reg_congr {s t : State} (h : t.v = s.v) (r : Nibble) : t.reg r = s.reg r :=
  congrArg (fun v : Vector Byte 16 => v[r.toNat]'r.isLt) h

/-- Settles O14: register by register what the writing handlers change; the others leave the register file. -/
theorem registersChangeOnlyAsListed : Obligations.RegistersChangeOnlyAsListed := by
  unfold Obligations.RegistersChangeOnlyAsListed
  intro s
  obtain ⟨-, hs⟩ | ⟨i, hn, hs⟩ := step_of_nextInstr? s
  · exact ⟨_, hs, fun r => .inl rfl⟩
  · rw [hn]
    refine ⟨_, hs, fun r => ?_⟩
    rw [State.reg_endCycle, ← s.reg_fetch r]
    have hf := afterExec_frame i s.fetch
    cases i with
    | ldImm x _ | addImm x _ | ldReg x _ | orReg x _ | andReg x _ | xorReg x _ | ldVxDT x =>
      exact s.fetch.reg_setReg_eq_or x _ r
    | rnd x _ => exact s.fetch.drawn.reg_setReg_eq_or x _ r
    | addReg x _ | subReg x _ | subnReg x _ | shr x _ | shl x _ => exact s.fetch.reg_setFlagged_eq_or x _ _ r
    | drw _ _ _ => exact (s.fetch.setFb _).reg_setReg_eq_or flagReg _ r
    | ldVxInd x => exact s.fetch.reg_loadBlock_eq_or x r
    | ldVxK x =>
      rw [afterExec_ldVxK]
      cases lowestKey s.fetch.key with
      | none => exact .inl rfl
      | some k => exact s.fetch.reg_setReg_eq_or x _ r
    | _ => exact .inl (State.reg_congr (congrArg State.v hf :) r)

/-! ### `pc` (R24) -/

/-- A skip on `p` (R147), after the fetch. -/
theorem State.skipIf_fetch_pc (s : State) {c : Bool} {p : Prop} [Decidable p] (h : c = true ↔ p) :
    (s.fetch.skipIf c).pc = if p then s.pc + 4#16 else s.pc + 2#16 := by
  rw [State.skipIf_eq, State.setPc_pc, State.fetch_pc, BitVec.add_assoc]
  exact if_congr h rfl rfl

/-- A skip on the failure of `p`, after the fetch. -/
theorem State.skipIf_fetch_pc_of_not (s : State) {c : Bool} {p : Prop} [Decidable p] (h : c = true ↔ ¬p) :
    (s.fetch.skipIf c).pc = if p then s.pc + 2#16 else s.pc + 4#16 :=
  (s.skipIf_fetch_pc h).trans (ite_not p _ _)

theorem State.keyDown_keyIndex (s : State) (b : Byte) : s.keyDown (keyIndex b) = s.key.getLsbD (b.toNat % 16) := by
  simp [State.keyDown, keyIndex]

theorem lowestKey_eq_none_iff (k : BitVec 16) : lowestKey k = none ↔ k = 0#16 := by
  rw [lowestKey_eq_none]
  constructor
  · exact fun h => BitVec.eq_of_getLsbD_eq fun j hj => by rw [h j hj, BitVec.getLsbD_zero]
  · rintro rfl j -
    exact BitVec.getLsbD_zero

/-- The key wait rewinds the advanced pc to the fetch address while no key is pressed (R225, R226). -/
theorem afterExec_ldVxK_pc (x : Nibble) (s : State) :
    (afterExec (.ldVxK x) s.fetch).pc = if s.key = 0#16 then s.pc else s.pc + 2#16 := by
  rw [afterExec_ldVxK, State.fetch_key]
  have hkey := lowestKey_eq_none_iff s.key
  cases hk : lowestKey s.key with
  | none =>
    rw [if_pos (hkey.mp hk)]
    exact BitVec.add_sub_cancel s.pc 2#16
  | some k =>
    rw [if_neg fun h => Option.some_ne_none k (hk.symm.trans (hkey.mpr h))]
    rfl

/-- Settles O13: the writers of `pc` one by one; every other handler leaves the advanced pc. -/
theorem cycleLeavesPc : Obligations.CycleLeavesPc := by
  unfold Obligations.CycleLeavesPc
  intro s
  obtain ⟨hn, hs⟩ | ⟨i, hn, hs⟩ := step_of_nextInstr? s
  · rw [hn]
    exact ⟨_, hs, rfl⟩
  · rw [hn]
    refine ⟨_, hs, ?_⟩
    rw [State.endCycle_pc]
    have hf := afterExec_frame i s.fetch
    cases i with
    | jp _ | call _ | ret => rfl
    | seImm _ _ | seReg _ _ => exact s.skipIf_fetch_pc beq_iff_eq
    | sneImm _ _ | sneReg _ _ => exact s.skipIf_fetch_pc_of_not bne_iff_ne
    | skp x => exact s.skipIf_fetch_pc (iff_of_eq (congrArg (· = true) (s.keyDown_keyIndex (s.reg x))))
    | sknp x =>
      have h : (!s.keyDown (keyIndex (s.reg x))) = true ↔ ¬s.key.getLsbD ((s.reg x).toNat % 16) = true := by
        rw [State.keyDown_keyIndex, Bool.not_eq_true', Bool.not_eq_true]
      exact s.skipIf_fetch_pc_of_not h
    | ldVxK x => exact afterExec_ldVxK_pc x s
    | _ => exact (congrArg State.pc hf :)

/-! ### The rest of reset -/

theorem resetContents_of_outside (g m : Nat → Byte) {a : Nat} (h : a < 0x50 ∨ 0xA0 ≤ a) :
    resetContents g m a = m a := by
  rw [resetContents, if_neg]
  simp only [Config.glyphBase, Config.glyphBytes]
  omega

/-- Settles O51: reset's fields as `initMachine` sets them, and MEM_RESET in every cell outside the glyph table. -/
theorem resetLeavesParameters : Obligations.ResetLeavesParameters := by
  unfold Obligations.ResetLeavesParameters
  intro g m ir s
  refine ⟨_, rfl, initMachine_i g m ir s, initMachine_sp g m ir s, initMachine_ir g m ir s, fun a ha hout => ?_,
    initMachine_rndIn g m ir s, initMachine_draws g m ir s⟩
  rw [memRead_initMachine, cellOf_of_lt ha, resetContents_of_outside g m hout]

end Sys2Proof.Machine
end

section
/-! PROOF. The family 20_memory.md: the effective address, the word every cycle fetches, and that the next cycle's
fetch sees a block store. -/

namespace Sys2Proof.Machine

/-! ### The effective address (R62) -/

/-- Settles O38: `cellOf` reduces `I + k` once, and reducing `I` first changes no sum mod 4096. -/
theorem effectiveAddressWraps : Obligations.EffectiveAddressWraps := by
  unfold Obligations.EffectiveAddressWraps
  intro s k
  exact ⟨(Nat.mod_add_mod s.i.toNat 4096 k).symm, cellOf_lt (s.ea k)⟩

/-! ### The fetched word (R63, R121) -/

/-- Only the fetch writes `IR` (R34). -/
theorem afterExec_ir (i : Instr) (s : State) : (afterExec i s).ir = s.ir := by
  have h := afterExec_frame i s
  cases i <;> exact (congrArg State.ir h :)

/-- Every cycle, recognized word or not, leaves in `IR` the word it fetched (R121). -/
theorem step_leaves_wordAt_pc (s : State) : ∃ t, step s = .next t ∧ t.ir = s.wordAt s.pc := by
  obtain ⟨-, hs⟩ | ⟨i, -, hs⟩ := step_of_nextInstr? s
  · exact ⟨_, hs, rfl⟩
  · exact ⟨_, hs, afterExec_ir i s.fetch⟩

theorem State.toNat_wordAt (s : State) (a : Word) :
    (s.wordAt a).toNat = 256 * (s.memRead a.toNat).toNat + (s.memRead (a.toNat + 1)).toNat := by
  rw [State.wordAt, toNat_wordOfBytes, Nat.mul_comm]

/-- Settles O9: `IR` is the word at `pc`, whose two bytes are read at addresses reduced one by one. -/
theorem cycleFetchesBigEndianWord : Obligations.CycleFetchesBigEndianWord := by
  unfold Obligations.CycleFetchesBigEndianWord
  intro s
  obtain ⟨t, hstep, hir⟩ := step_leaves_wordAt_pc s
  exact ⟨t, hstep, by rw [hir]; exact s.toNat_wordAt s.pc⟩

/-! ### A store seen by the next fetch (R64, R76) -/

/-- A word whose high byte lies in the cell of `I + k` has its low byte in the cell of `I + (k + 1)` (R62). -/
theorem State.wordAt_of_cellOf_ea (s : State) {a : Word} {k : Nat} (h : cellOf (s.ea k) = cellOf a.toNat) :
    s.wordAt a = wordOfBytes (s.memRead (s.ea k)) (s.memRead (s.ea (k + 1))) := by
  have hlow : cellOf (s.ea (k + 1)) = cellOf (a.toNat + 1) := Nat.ModEq.add_right 1 h
  exact congrArg₂ (fun p q => wordOfBytes (s.mem.read p) (s.mem.read q)) h.symm hlow.symm

/-- After LD [I],Vx the cell of `I + k` holds `V[k]` (R194). -/
theorem afterExec_ldIndVx_memRead (x : Nibble) (s : State) {k : Nat} (hk : k ≤ x.toNat) :
    (afterExec (.ldIndVx x) s).memRead (s.ea k) = s.reg (BitVec.ofNat 4 k) :=
  (s.storeBlock_read (x.toNat + 1) x.isLt).1 k (Nat.lt_succ_of_le hk)

/-- After LD [I],Vx a word that begins in the cell of `I + k` is made of `V[k]` and `V[k + 1]` (R63, R194). -/
theorem afterExec_ldIndVx_wordAt (x : Nibble) (s : State) {a : Word} {k : Nat} (hk : k + 1 ≤ x.toNat)
    (h : cellOf (s.ea k) = cellOf a.toNat) :
    (afterExec (.ldIndVx x) s).wordAt a = wordOfBytes (s.reg (BitVec.ofNat 4 k)) (s.reg (BitVec.ofNat 4 (k + 1))) := by
  have hframe : afterExec (.ldIndVx x) s = { s with mem := (afterExec (.ldIndVx x) s).mem } :=
    afterExec_frame (.ldIndVx x) s
  have hea (n : Nat) : (afterExec (.ldIndVx x) s).ea n = s.ea n := by rw [hframe]; rfl
  rw [State.wordAt_of_cellOf_ea _ ((hea k ▸ h)), hea, hea, afterExec_ldIndVx_memRead x s (Nat.le_of_succ_le hk),
    afterExec_ldIndVx_memRead x s hk]

/-- Settles O24: the store leaves the advanced `pc`, and the next cycle fetches there from the memory it wrote. -/
theorem nextFetchSeesStore : Obligations.NextFetchSeesStore := by
  unfold Obligations.NextFetchSeesStore
  intro s x k hn hk hcell
  obtain ⟨u, hu, hir⟩ := step_leaves_wordAt_pc ((afterExec (.ldIndVx x) s.fetch).endCycle .ok)
  refine ⟨_, u, step_of_some hn, hu, ?_⟩
  have hpc : (afterExec (.ldIndVx x) s.fetch).pc = s.pc + 2#16 :=
    congrArg State.pc (afterExec_frame (.ldIndVx x) s.fetch :)
  calc u.ir = (afterExec (.ldIndVx x) s.fetch).wordAt (afterExec (.ldIndVx x) s.fetch).pc := hir
    _ = (afterExec (.ldIndVx x) s.fetch).wordAt (s.pc + 2#16) := by rw [hpc]
    _ = wordOfBytes (s.reg (BitVec.ofNat 4 k)) (s.reg (BitVec.ofNat 4 (k + 1))) :=
      afterExec_ldIndVx_wordAt x s.fetch hk hcell

end Sys2Proof.Machine
end

section
/-! PROOF. The family 30_encoding.md: the decoder and the encoder invert each other, the rows of R95 select what the
decoder selects, and the words the decoder rejects are those of R97. -/

namespace Sys2Proof

/-! ### Decode of encode (R90, R94, R95) -/

theorem decodeWord_encode (i : Instr) : decodeWord (encode i) = .ok i := by
  cases i with
  | cls | ret => rfl
  | ldReg x y | orReg x y | andReg x y | xorReg x y | addReg x y | subReg x y | shr x y | subnReg x y | shl x y =>
    simp [encode, decodeWord, decodeClass8]
  | skp x | sknp x => simp [encode, decodeWord, decodeClassE]
  | ldVxDT x | ldVxK x | ldDTVx x | ldSTVx x | addIVx x | ldFVx x | ldBVx x | ldIndVx x | ldVxInd x =>
    simp [encode, decodeWord, decodeClassF]
  | _ => simp [encode, decodeWord]

theorem decodeBytes_encodeBytes (i : Instr) (rest : List Byte) :
    decodeBytes (encodeBytes i ++ rest) = .ok (i, rest) := by
  simp [encodeBytes, decodeBytes, decodeWord_encode]

/-- Settles O1: the two bytes make up the encoded word again, and that decodes to its instruction. -/
theorem decodeInvertsEncode : Obligations.DecodeInvertsEncode := by
  unfold Obligations.DecodeInvertsEncode
  exact decodeBytes_encodeBytes

/-! ### The decoder, class by class (R94) -/

/-- What `decodeWord` answers in each of the 16 classes. -/
inductive ClassCase (w : Word) : Prop
  | class0 (hc : fieldClass w = 0x0#4) (hd : decodeWord w = decodeClass0 w)
  | jp (hc : fieldClass w = 0x1#4) (hd : decodeWord w = .ok (.jp (fieldNNN w)))
  | call (hc : fieldClass w = 0x2#4) (hd : decodeWord w = .ok (.call (fieldNNN w)))
  | seImm (hc : fieldClass w = 0x3#4) (hd : decodeWord w = .ok (.seImm (fieldX w) (fieldKK w)))
  | sneImm (hc : fieldClass w = 0x4#4) (hd : decodeWord w = .ok (.sneImm (fieldX w) (fieldKK w)))
  | class5 (hc : fieldClass w = 0x5#4)
      (hd : decodeWord w = if fieldN w = 0x0#4 then .ok (.seReg (fieldX w) (fieldY w)) else .error .class5)
  | ldImm (hc : fieldClass w = 0x6#4) (hd : decodeWord w = .ok (.ldImm (fieldX w) (fieldKK w)))
  | addImm (hc : fieldClass w = 0x7#4) (hd : decodeWord w = .ok (.addImm (fieldX w) (fieldKK w)))
  | class8 (hc : fieldClass w = 0x8#4) (hd : decodeWord w = decodeClass8 w)
  | class9 (hc : fieldClass w = 0x9#4)
      (hd : decodeWord w = if fieldN w = 0x0#4 then .ok (.sneReg (fieldX w) (fieldY w)) else .error .class9)
  | ldI (hc : fieldClass w = 0xA#4) (hd : decodeWord w = .ok (.ldI (fieldNNN w)))
  | classB (hc : fieldClass w = 0xB#4) (hd : decodeWord w = .error .classB)
  | rnd (hc : fieldClass w = 0xC#4) (hd : decodeWord w = .ok (.rnd (fieldX w) (fieldKK w)))
  | drw (hc : fieldClass w = 0xD#4) (hd : decodeWord w = .ok (.drw (fieldX w) (fieldY w) (fieldN w)))
  | classE (hc : fieldClass w = 0xE#4) (hd : decodeWord w = decodeClassE w)
  | classF (hc : fieldClass w = 0xF#4) (hd : decodeWord w = decodeClassF w)

theorem nibble_cases (c : Nibble) :
    c = 0x0#4 ∨ c = 0x1#4 ∨ c = 0x2#4 ∨ c = 0x3#4 ∨ c = 0x4#4 ∨ c = 0x5#4 ∨ c = 0x6#4 ∨ c = 0x7#4 ∨ c = 0x8#4 ∨
      c = 0x9#4 ∨ c = 0xA#4 ∨ c = 0xB#4 ∨ c = 0xC#4 ∨ c = 0xD#4 ∨ c = 0xE#4 ∨ c = 0xF#4 := by
  revert c
  decide

theorem classCase (w : Word) : ClassCase w := by
  obtain h | h | h | h | h | h | h | h | h | h | h | h | h | h | h | h := nibble_cases (fieldClass w)
  · exact .class0 h (by simp [decodeWord, h])
  · exact .jp h (by simp [decodeWord, h])
  · exact .call h (by simp [decodeWord, h])
  · exact .seImm h (by simp [decodeWord, h])
  · exact .sneImm h (by simp [decodeWord, h])
  · exact .class5 h (by simp [decodeWord, h])
  · exact .ldImm h (by simp [decodeWord, h])
  · exact .addImm h (by simp [decodeWord, h])
  · exact .class8 h (by simp [decodeWord, h])
  · exact .class9 h (by simp [decodeWord, h])
  · exact .ldI h (by simp [decodeWord, h])
  · exact .classB h (Machine.decodeWord_classB h)
  · exact .rnd h (by simp [decodeWord, h])
  · exact .drw h (by simp [decodeWord, h])
  · exact .classE h (by simp [decodeWord, h])
  · exact .classF h (by simp [decodeWord, h])

/-! ### Encode of decode (R94, R99) -/

section
variable {w : Word} {c n : Nibble} {k : Byte}

theorem encodeA_of_class (hc : fieldClass w = c) : encodeA c (fieldNNN w) = w := hc ▸ encodeA_fields w

theorem encodeXK_of_class (hc : fieldClass w = c) : encodeXK c (fieldX w) (fieldKK w) = w := hc ▸ encodeXK_fields w

theorem encodeXK_of_fields (hc : fieldClass w = c) (hk : fieldKK w = k) : encodeXK c (fieldX w) k = w :=
  hk ▸ encodeXK_of_class hc

theorem encodeXYN_of_class (hc : fieldClass w = c) : encodeXYN c (fieldX w) (fieldY w) (fieldN w) = w :=
  hc ▸ encodeXYN_fields w

theorem encodeXYN_of_fields (hc : fieldClass w = c) (hn : fieldN w = n) :
    encodeXYN c (fieldX w) (fieldY w) n = w :=
  hn ▸ encodeXYN_of_class hc

end

section
variable {w : Word} {i : Instr}

theorem encode_of_decodeClass0 (h : decodeClass0 w = .ok i) : encode i = w := by
  unfold decodeClass0 at h
  split_ifs at h with hcls hret <;> cases h
  exacts [hcls.symm, hret.symm]

theorem encode_of_decodeClass8 (hc : fieldClass w = 0x8#4) (h : decodeClass8 w = .ok i) : encode i = w := by
  simp only [decodeClass8] at h
  split_ifs at h with hn hn hn hn hn hn hn hn hn <;> cases h <;> exact encodeXYN_of_fields hc hn

theorem encode_of_decodeClassE (hc : fieldClass w = 0xE#4) (h : decodeClassE w = .ok i) : encode i = w := by
  unfold decodeClassE at h
  split_ifs at h with hk hk <;> cases h <;> exact encodeXK_of_fields hc hk

theorem encode_of_decodeClassF (hc : fieldClass w = 0xF#4) (h : decodeClassF w = .ok i) : encode i = w := by
  simp only [decodeClassF] at h
  split_ifs at h with hk hk hk hk hk hk hk hk hk <;> cases h <;> exact encodeXK_of_fields hc hk

theorem encode_of_decodeWord (h : decodeWord w = .ok i) : encode i = w := by
  cases classCase w with
  | class0 hc hd => exact encode_of_decodeClass0 (hd ▸ h)
  | class8 hc hd => exact encode_of_decodeClass8 hc (hd ▸ h)
  | classE hc hd => exact encode_of_decodeClassE hc (hd ▸ h)
  | classF hc hd => exact encode_of_decodeClassF hc (hd ▸ h)
  | classB hc hd => cases hd ▸ h
  | class5 hc hd | class9 hc hd =>
    rw [hd] at h
    split_ifs at h with hn
    cases h
    exact encodeXYN_of_fields hc hn
  | jp hc hd | call hc hd | ldI hc hd => cases hd ▸ h; exact encodeA_of_class hc
  | drw hc hd => cases hd ▸ h; exact encodeXYN_of_class hc
  | seImm hc hd | sneImm hc hd | ldImm hc hd | addImm hc hd | rnd hc hd =>
    cases hd ▸ h
    exact encodeXK_of_class hc

end

theorem decodeWord_eq_ok_iff {w : Word} {i : Instr} : decodeWord w = .ok i ↔ encode i = w :=
  ⟨encode_of_decodeWord, fun h => h ▸ decodeWord_encode i⟩

/-- Settles O2: in each class the compared bits and the fields together are the whole word. -/
theorem encodeInvertsDecode : Obligations.EncodeInvertsDecode := by
  unfold Obligations.EncodeInvertsDecode
  exact fun _ _ => encode_of_decodeWord

/-! ### Masks and matches (R94, R95) -/

section
variable {w : Word} {c n : Nibble} {k : Byte}

theorem fieldClass_of_F000 (h : w &&& 0xF000#16 = encodeA c 0#12) : fieldClass w = c := by
  simpa using congrArg fieldClass ((and_F000 w).symm.trans h)

theorem fields_of_F0FF (h : w &&& 0xF0FF#16 = encodeXK c 0#4 k) : fieldClass w = c ∧ fieldKK w = k := by
  have hw : encodeXK (fieldClass w) 0#4 (fieldKK w) = encodeXK c 0#4 k := (and_F0FF w).symm.trans h
  exact ⟨by simpa using congrArg fieldClass hw, by simpa using congrArg fieldKK hw⟩

theorem fields_of_F00F (h : w &&& 0xF00F#16 = encodeXYN c 0#4 0#4 n) : fieldClass w = c ∧ fieldN w = n := by
  have hw : encodeXYN (fieldClass w) 0#4 0#4 (fieldN w) = encodeXYN c 0#4 0#4 n := (and_F00F w).symm.trans h
  exact ⟨by simpa using congrArg fieldClass hw, by simpa using congrArg fieldN hw⟩

theorem encodeXK_of_F0FF (h : w &&& 0xF0FF#16 = encodeXK c 0#4 k) : encodeXK c (fieldX w) k = w :=
  let ⟨hc, hk⟩ := fields_of_F0FF h
  encodeXK_of_fields hc hk

theorem encodeXYN_of_F00F (h : w &&& 0xF00F#16 = encodeXYN c 0#4 0#4 n) : encodeXYN c (fieldX w) (fieldY w) n = w :=
  let ⟨hc, hn⟩ := fields_of_F00F h
  encodeXYN_of_fields hc hn

end

/-- `w` is the word of an instruction whose key is the row's. -/
def OpcodeRow.Encodes (row : OpcodeRow) (w : Word) : Prop := ∃ i, encode i = w ∧ i.mnemonic = row.mnemonic

/-! #### A word that a row's mask and match select is the word of an instruction of that row -/

section
variable {w : Word}

theorem encodes_of_match_plain : ∀ row ∈ opcodeRowsPlain, w &&& row.mask = row.pat → row.Encodes w := by
  simp only [opcodeRowsPlain, List.forall_mem_cons]
  have hwhole : w &&& 0xFFFF#16 = w := BitVec.and_allOnes
  exact ⟨fun h => ⟨.cls, h.symm.trans hwhole, rfl⟩, fun h => ⟨.ret, h.symm.trans hwhole, rfl⟩,
    fun h => ⟨.jp (fieldNNN w), encodeA_of_class (fieldClass_of_F000 h), rfl⟩,
    fun h => ⟨.call (fieldNNN w), encodeA_of_class (fieldClass_of_F000 h), rfl⟩,
    fun h => ⟨.seImm (fieldX w) (fieldKK w), encodeXK_of_class (fieldClass_of_F000 h), rfl⟩,
    fun h => ⟨.sneImm (fieldX w) (fieldKK w), encodeXK_of_class (fieldClass_of_F000 h), rfl⟩,
    fun h => ⟨.ldImm (fieldX w) (fieldKK w), encodeXK_of_class (fieldClass_of_F000 h), rfl⟩,
    fun h => ⟨.addImm (fieldX w) (fieldKK w), encodeXK_of_class (fieldClass_of_F000 h), rfl⟩,
    fun h => ⟨.ldI (fieldNNN w), encodeA_of_class (fieldClass_of_F000 h), rfl⟩,
    fun h => ⟨.rnd (fieldX w) (fieldKK w), encodeXK_of_class (fieldClass_of_F000 h), rfl⟩,
    fun h => ⟨.drw (fieldX w) (fieldY w) (fieldN w), encodeXYN_of_class (fieldClass_of_F000 h), rfl⟩,
    List.forall_mem_nil _⟩

theorem encodes_of_match_nibble : ∀ row ∈ opcodeRowsNibble, w &&& row.mask = row.pat → row.Encodes w := by
  simp only [opcodeRowsNibble, List.forall_mem_cons]
  exact ⟨fun h => ⟨.seReg (fieldX w) (fieldY w), encodeXYN_of_F00F h, rfl⟩,
    fun h => ⟨.ldReg (fieldX w) (fieldY w), encodeXYN_of_F00F h, rfl⟩,
    fun h => ⟨.orReg (fieldX w) (fieldY w), encodeXYN_of_F00F h, rfl⟩,
    fun h => ⟨.andReg (fieldX w) (fieldY w), encodeXYN_of_F00F h, rfl⟩,
    fun h => ⟨.xorReg (fieldX w) (fieldY w), encodeXYN_of_F00F h, rfl⟩,
    fun h => ⟨.addReg (fieldX w) (fieldY w), encodeXYN_of_F00F h, rfl⟩,
    fun h => ⟨.subReg (fieldX w) (fieldY w), encodeXYN_of_F00F h, rfl⟩,
    fun h => ⟨.shr (fieldX w) (fieldY w), encodeXYN_of_F00F h, rfl⟩,
    fun h => ⟨.subnReg (fieldX w) (fieldY w), encodeXYN_of_F00F h, rfl⟩,
    fun h => ⟨.shl (fieldX w) (fieldY w), encodeXYN_of_F00F h, rfl⟩,
    fun h => ⟨.sneReg (fieldX w) (fieldY w), encodeXYN_of_F00F h, rfl⟩,
    List.forall_mem_nil _⟩

theorem encodes_of_match_byte : ∀ row ∈ opcodeRowsByte, w &&& row.mask = row.pat → row.Encodes w := by
  simp only [opcodeRowsByte, List.forall_mem_cons]
  exact ⟨fun h => ⟨.skp (fieldX w), encodeXK_of_F0FF h, rfl⟩,
    fun h => ⟨.sknp (fieldX w), encodeXK_of_F0FF h, rfl⟩,
    fun h => ⟨.ldVxDT (fieldX w), encodeXK_of_F0FF h, rfl⟩,
    fun h => ⟨.ldVxK (fieldX w), encodeXK_of_F0FF h, rfl⟩,
    fun h => ⟨.ldDTVx (fieldX w), encodeXK_of_F0FF h, rfl⟩,
    fun h => ⟨.ldSTVx (fieldX w), encodeXK_of_F0FF h, rfl⟩,
    fun h => ⟨.addIVx (fieldX w), encodeXK_of_F0FF h, rfl⟩,
    fun h => ⟨.ldFVx (fieldX w), encodeXK_of_F0FF h, rfl⟩,
    fun h => ⟨.ldBVx (fieldX w), encodeXK_of_F0FF h, rfl⟩,
    fun h => ⟨.ldIndVx (fieldX w), encodeXK_of_F0FF h, rfl⟩,
    fun h => ⟨.ldVxInd (fieldX w), encodeXK_of_F0FF h, rfl⟩,
    List.forall_mem_nil _⟩

end

theorem encodes_of_match {w : Word} {row : OpcodeRow} (hrow : row ∈ opcodeRows) (h : w &&& row.mask = row.pat) :
    row.Encodes w := by
  rw [opcodeRows, List.mem_append, List.mem_append] at hrow
  obtain (hp | hn) | hb := hrow
  · exact encodes_of_match_plain row hp h
  · exact encodes_of_match_nibble row hn h
  · exact encodes_of_match_byte row hb h

/-- The lemmas of Laws/PerInstr.lean together. -/
theorem encodesInRow (i : Instr) : Laws.EncodesInRow.Statement i := by
  cases i with
  | cls => exact Laws.EncodesInRow.cls
  | ret => exact Laws.EncodesInRow.ret
  | jp nnn => exact Laws.EncodesInRow.jp nnn
  | call nnn => exact Laws.EncodesInRow.call nnn
  | seImm x kk => exact Laws.EncodesInRow.seImm x kk
  | sneImm x kk => exact Laws.EncodesInRow.sneImm x kk
  | seReg x y => exact Laws.EncodesInRow.seReg x y
  | ldImm x kk => exact Laws.EncodesInRow.ldImm x kk
  | addImm x kk => exact Laws.EncodesInRow.addImm x kk
  | ldReg x y => exact Laws.EncodesInRow.ldReg x y
  | orReg x y => exact Laws.EncodesInRow.orReg x y
  | andReg x y => exact Laws.EncodesInRow.andReg x y
  | xorReg x y => exact Laws.EncodesInRow.xorReg x y
  | addReg x y => exact Laws.EncodesInRow.addReg x y
  | subReg x y => exact Laws.EncodesInRow.subReg x y
  | shr x y => exact Laws.EncodesInRow.shr x y
  | subnReg x y => exact Laws.EncodesInRow.subnReg x y
  | shl x y => exact Laws.EncodesInRow.shl x y
  | sneReg x y => exact Laws.EncodesInRow.sneReg x y
  | ldI nnn => exact Laws.EncodesInRow.ldI nnn
  | rnd x kk => exact Laws.EncodesInRow.rnd x kk
  | drw x y n => exact Laws.EncodesInRow.drw x y n
  | skp x => exact Laws.EncodesInRow.skp x
  | sknp x => exact Laws.EncodesInRow.sknp x
  | ldVxDT x => exact Laws.EncodesInRow.ldVxDT x
  | ldVxK x => exact Laws.EncodesInRow.ldVxK x
  | ldDTVx x => exact Laws.EncodesInRow.ldDTVx x
  | ldSTVx x => exact Laws.EncodesInRow.ldSTVx x
  | addIVx x => exact Laws.EncodesInRow.addIVx x
  | ldFVx x => exact Laws.EncodesInRow.ldFVx x
  | ldBVx x => exact Laws.EncodesInRow.ldBVx x
  | ldIndVx x => exact Laws.EncodesInRow.ldIndVx x
  | ldVxInd x => exact Laws.EncodesInRow.ldVxInd x

/-- A row's key is its own (R101). -/
theorem nodup_mnemonics : (opcodeRows.map OpcodeRow.mnemonic).Nodup := by decide

theorem match_of_encodes {w : Word} {row : OpcodeRow} (hrow : row ∈ opcodeRows) (h : row.Encodes w) :
    w &&& row.mask = row.pat := by
  obtain ⟨i, rfl, hkey⟩ := h
  obtain ⟨row', hrow', hkey', hmatch⟩ := encodesInRow i
  have heq : row' = row := List.inj_on_of_nodup_map nodup_mnemonics hrow' hrow (hkey'.trans hkey)
  exact heq ▸ hmatch

theorem match_iff_decodes (w : Word) {row : OpcodeRow} (hrow : row ∈ opcodeRows) :
    w &&& row.mask = row.pat ↔ ∃ i, decodeWord w = .ok i ∧ i.mnemonic = row.mnemonic := by
  simp only [decodeWord_eq_ok_iff]
  exact ⟨encodes_of_match hrow, match_of_encodes hrow⟩

/-- Settles O3: a row selects the words of the instructions that bear its key, and those words decode to them. -/
theorem decodeSelectsByMaskAndMatch : Obligations.DecodeSelectsByMaskAndMatch := by
  unfold Obligations.DecodeSelectsByMaskAndMatch
  exact fun w _ hrow => match_iff_decodes w hrow

/-! ### How many rows match (R103) -/

theorem count_mnemonic (i : Instr) : (opcodeRows.map OpcodeRow.mnemonic).count i.mnemonic = 1 := by
  obtain ⟨row, hrow, hkey, -⟩ := encodesInRow i
  exact List.count_eq_one_of_mem nodup_mnemonics (hkey ▸ List.mem_map_of_mem hrow)

theorem countP_match_of_ok {w : Word} {i : Instr} (h : decodeWord w = .ok i) :
    opcodeRows.countP (fun row => w &&& row.mask == row.pat) = 1 := by
  rw [← count_mnemonic i, List.count, List.countP_map]
  refine List.countP_congr fun row hrow => ?_
  rw [beq_iff_eq, match_iff_decodes w hrow, h]
  simp only [Except.ok.injEq, exists_eq_left', Function.comp_apply, beq_iff_eq]
  exact eq_comm

theorem countP_match_of_error {w : Word} {r : Reject} (h : decodeWord w = .error r) :
    opcodeRows.countP (fun row => w &&& row.mask == row.pat) = 0 := by
  refine List.countP_eq_zero.mpr fun row hrow hmatch => ?_
  obtain ⟨i, hi, -⟩ := (match_iff_decodes w hrow).mp (beq_iff_eq.mp hmatch)
  rw [h] at hi
  cases hi

/-- Settles O4: the rows that match are those with the decoded instruction's key, and keys are unique. -/
theorem decodingIsUnambiguous : Obligations.DecodingIsUnambiguous := by
  unfold Obligations.DecodingIsUnambiguous
  intro w
  rw [← List.countP_eq_length_filter]
  cases h : decodeWord w with
  | ok i => exact countP_match_of_ok h
  | error r => exact countP_match_of_error h

/-! ### The rejected words (R97, R98) -/

theorem exists_ite_ok_eq_error_iff {p : Prop} [Decidable p] (i : Instr) (d : Except Reject Instr) :
    (∃ r, (if p then .ok i else d) = .error r) ↔ ¬p ∧ ∃ r, d = .error r := by
  by_cases h : p <;> simp [h]

/-- Words of one class differ in the address field. -/
theorem eq_iff_fieldNNN_eq {w v : Word} (hc : fieldClass w = fieldClass v) : w = v ↔ fieldNNN w = fieldNNN v :=
  ⟨congrArg fieldNNN, fun h => by rw [← encodeA_fields w, ← encodeA_fields v, hc, h]⟩

theorem decodeClass0_error_iff {w : Word} (hc : fieldClass w = 0x0#4) :
    (∃ r, decodeClass0 w = .error r) ↔ fieldNNN w ≠ 0x0E0#12 ∧ fieldNNN w ≠ 0x0EE#12 := by
  have hcls : w = 0x00E0#16 ↔ fieldNNN w = 0x0E0#12 := eq_iff_fieldNNN_eq hc
  have hret : w = 0x00EE#16 ↔ fieldNNN w = 0x0EE#12 := eq_iff_fieldNNN_eq hc
  simp only [decodeClass0, exists_ite_ok_eq_error_iff, hcls, hret, Except.error.injEq, exists_eq', and_true, ne_eq]

theorem decodeClass8_error_iff (w : Word) :
    (∃ r, decodeClass8 w = .error r) ↔ fieldN w ∈ [0x8#4, 0x9#4, 0xA#4, 0xB#4, 0xC#4, 0xD#4, 0xF#4] := by
  simp only [decodeClass8, exists_ite_ok_eq_error_iff, Except.error.injEq, exists_eq', and_true]
  generalize fieldN w = n
  revert n
  decide

theorem decodeClassE_error_iff (w : Word) :
    (∃ r, decodeClassE w = .error r) ↔ fieldKK w ∉ [0x9E#8, 0xA1#8] := by
  simp [decodeClassE, exists_ite_ok_eq_error_iff]

theorem decodeClassF_error_iff (w : Word) :
    (∃ r, decodeClassF w = .error r) ↔
      fieldKK w ∉ [0x07#8, 0x0A#8, 0x15#8, 0x18#8, 0x1E#8, 0x29#8, 0x33#8, 0x55#8, 0x65#8] := by
  simp [decodeClassF, exists_ite_ok_eq_error_iff]

/-- Settles O5: in each class the bits the decoder compares leave the words of R97's row. -/
theorem unrecognizedWordsAreTheTables : Obligations.UnrecognizedWordsAreTheTables := by
  unfold Obligations.UnrecognizedWordsAreTheTables
  intro w
  cases classCase w with
  | class0 hc hd => rw [hd, decodeClass0_error_iff hc]; simp [hc]
  | class8 hc hd => rw [hd, decodeClass8_error_iff]; simp [hc]
  | classE hc hd => rw [hd, decodeClassE_error_iff]; simp [hc]
  | classF hc hd => rw [hd, decodeClassF_error_iff]; simp [hc]
  | class5 hc hd | class9 hc hd => rw [hd, exists_ite_ok_eq_error_iff]; simp [hc]
  | classB hc hd => simp [hc, hd]
  | jp hc hd | call hc hd | ldI hc hd | drw hc hd | seImm hc hd | sneImm hc hd | ldImm hc hd | addImm hc hd
  | rnd hc hd => simp [hc, hd]

/-! ### Written-out words (R96) -/

/-- Settles O6: every accepted word is the encoding of its instruction; `0000` is compared whole. -/
theorem writtenOutWordsDecode : Obligations.WrittenOutWordsDecode := by
  unfold Obligations.WrittenOutWordsDecode
  exact ⟨decodeBytes_encodeBytes .cls [],
    decodeBytes_encodeBytes (.ldImm 0#4 0x0A#8) [0x61#8, 0x05#8],
    decodeBytes_encodeBytes (.addReg 0#4 1#4) [],
    decodeBytes_encodeBytes (.call 0x20A#12) [],
    decodeBytes_encodeBytes .ret [],
    decodeBytes_encodeBytes (.ldVxInd 2#4) [],
    decodeBytes_encodeBytes (.rnd 3#4 0x0F#8) [],
    decodeBytes_encodeBytes (.ldDTVx 0#4) [],
    decodeBytes_encodeBytes (.ldVxK 5#4) [],
    decodeBytes_encodeBytes (.drw 0#4 1#4 2#4) [],
    rfl⟩

end Sys2Proof
end

section
/-! PROOF. The family 40_cycle_and_dispatch.md: what one cycle is for a recognized and for an unrecognized word, that
every cycle answers, and the timers over one cycle and over many. -/

namespace Sys2Proof.Machine

/-! ### One cycle (R120 to R129) -/

/-- Settles O7: the fetched state is the state with `IR` loaded and `pc` advanced, and the handler answers a next
state, on which `finishCycle` is the end of the cycle. -/
theorem stepRunsDecodedInstruction : Obligations.StepRunsDecodedInstruction := by
  unfold Obligations.StepRunsDecodedInstruction
  intro s i hd
  have hfetch : ({ s with ir := s.wordAt s.pc, pc := s.pc + 2#16 } : State) = s.fetch := rfl
  have hd' : decodeWord s.fetch.ir = .ok i := hd
  rw [step, cycle_of_ok hd', hfetch, exec_eq_next]
  rfl

/-- The address an unrecognized word is reported at is the one it was fetched from: the advanced `pc` less 2
(decision D20). -/
theorem step_of_decode_error {s : State} {r : Reject} (hd : decodeWord (s.wordAt s.pc) = .error r) :
    step s = .next (s.fetch.endCycle (.unrecognizedInstruction (s.wordAt s.pc) s.pc)) := by
  have hd' : decodeWord s.fetch.ir = .error r := hd
  have haddr : s.fetch.pc - 2#16 = s.pc := BitVec.add_sub_cancel s.pc 2#16
  rw [step, cycle_of_error hd', State.unrecognized_off, haddr, State.fetch_ir]

/-- Step 6 takes one from a positive timer (R127). -/
theorem toNat_countDown (b : Byte) : (countDown b).toNat = b.toNat - 1 := by
  rw [countDown]
  split
  · next hb => rw [hb]; rfl
  · bv_omega

/-- Settles O8: no handler stands between the fetch and the end of the cycle. -/
theorem unrecognizedWordOnlyAdvances : Obligations.UnrecognizedWordOnlyAdvances := by
  unfold Obligations.UnrecognizedWordOnlyAdvances
  intro s r hd
  exact ⟨_, step_of_decode_error hd, BitVec.toNat_add s.pc 2#16, toNat_countDown s.dt, toNat_countDown s.st, rfl⟩

/-- Settles O12: every handler answers, and a cycle without one ends in a next state too. -/
theorem nothingFaults : Obligations.NothingFaults := by
  unfold Obligations.NothingFaults
  refine ⟨fun i s => ⟨_, exec_eq_next i s⟩, fun s => ?_⟩
  obtain ⟨-, hs⟩ | ⟨i, -, hs⟩ := step_of_nextInstr? s
  · exact ⟨_, hs⟩
  · exact ⟨_, hs⟩

/-! ### The timers over one cycle (R127, R130) -/

theorem afterExec_dt {i : Instr} (hi : ∀ x, i ≠ .ldDTVx x) (s : State) : (afterExec i s).dt = s.dt := by
  have h := afterExec_frame i s
  cases i with
  | ldDTVx x => exact absurd rfl (hi x)
  | _ => exact (congrArg State.dt h :)

theorem afterExec_st {i : Instr} (hi : ∀ x, i ≠ .ldSTVx x) (s : State) : (afterExec i s).st = s.st := by
  have h := afterExec_frame i s
  cases i with
  | ldSTVx x => exact absurd rfl (hi x)
  | _ => exact (congrArg State.st h :)

/-- Settles O10: a handler leaves a timer alone unless it is the one that writes it, and step 6 takes one off. -/
theorem cycleDecrementsTimers : Obligations.CycleDecrementsTimers := by
  unfold Obligations.CycleDecrementsTimers
  intro s
  obtain ⟨hn, hs⟩ | ⟨i, hn, hs⟩ := step_of_nextInstr? s
  · rw [hn]
    exact ⟨_, hs, toNat_countDown s.dt, toNat_countDown s.st⟩
  · rw [hn]
    refine ⟨_, hs, ?_⟩
    rw [State.endCycle_dt, State.endCycle_st, toNat_countDown, toNat_countDown]
    have hdt (hi : ∀ x, i ≠ .ldDTVx x) : (afterExec i s.fetch).dt = s.dt := afterExec_dt hi s.fetch
    have hst (hi : ∀ x, i ≠ .ldSTVx x) : (afterExec i s.fetch).st = s.st := afterExec_st hi s.fetch
    cases i with
    | ldDTVx x => exact ⟨rfl, by rw [hst nofun]⟩
    | ldSTVx x => exact ⟨by rw [hdt nofun], rfl⟩
    | _ => exact ⟨by rw [hdt nofun], by rw [hst nofun]⟩

/-- Settles O44: the handler copies DT of the fetched state, which is DT before step 6 takes one off. -/
theorem ldVxDTReadsBeforeDecrement : Obligations.LdVxDTReadsBeforeDecrement := by
  unfold Obligations.LdVxDTReadsBeforeDecrement
  intro s x hn
  exact ⟨_, step_of_some hn, s.fetch.reg_setReg_same x s.dt, toNat_countDown s.dt⟩

/-! ### The delay timer over many cycles (R130 c) -/

theorem State.afterCycle_of_step {s t : State} (h : step s = .next t) : s.afterCycle = t := by
  rw [State.afterCycle, h]

/-- A cycle that does not write DT takes one off it. -/
theorem State.toNat_afterCycle_dt {s : State} (hs : ∀ x, s.nextInstr? ≠ some (.ldDTVx x)) :
    s.afterCycle.dt.toNat = s.dt.toNat - 1 := by
  obtain ⟨-, hstep⟩ | ⟨i, hn, hstep⟩ := step_of_nextInstr? s
  · rw [State.afterCycle_of_step hstep, State.endCycle_dt, State.fetch_dt, toNat_countDown]
  · have hi : ∀ x, i ≠ .ldDTVx x := fun x hx => hs x (hx ▸ hn)
    rw [State.afterCycle_of_step hstep, State.endCycle_dt, afterExec_dt hi, State.fetch_dt, toNat_countDown]

/-- Settles O11, by induction on the number of cycles, from any state. -/
theorem delayTimerCountsCycles : Obligations.DelayTimerCountsCycles := by
  unfold Obligations.DelayTimerCountsCycles
  intro k
  induction k with
  | zero => exact fun s _ => rfl
  | succ k ih =>
    intro s hs
    have hfirst : s.afterCycle.dt.toNat = s.dt.toNat - 1 := State.toNat_afterCycle_dt (hs 0 k.succ_pos)
    calc (s.afterCycles (k + 1)).dt.toNat = s.afterCycle.dt.toNat - k :=
          ih s.afterCycle fun j hj => hs (j + 1) (Nat.succ_lt_succ hj)
      _ = s.dt.toNat - (k + 1) := by rw [hfirst]; omega

end Sys2Proof.Machine
end

section
/-! PROOF. The family 41_control_flow.md: the push and the pop of the call stack, and the six skips as exact next
states. -/

namespace Sys2Proof.Machine

/-! ### Jumps, calls and returns (R140 to R142) -/

theorem toNat_zextAddr (nnn : Addr) : (zextAddr nnn).toNat = nnn.toNat :=
  BitVec.toNat_setWidth_of_le (by decide)

/-- Settles O25: the handler writes `pc` alone, and zero extension keeps the value. -/
theorem jpLoadsPc : Obligations.JpLoadsPc := by
  unfold Obligations.JpLoadsPc
  exact fun nnn s => ⟨s.setPc (zextAddr nnn), rfl, toNat_zextAddr nnn, rfl⟩

/-- A push writes the advanced pc to the entry SP points to and no other (R141). -/
theorem State.stackAt_pushPc (s : State) (p : Nibble) :
    s.pushPc.stackAt p = if p = s.sp then s.pc else s.stackAt p :=
  s.stackAt_setStackAt s.sp p s.pc

/-- Settles O26: the entry at SP is the one the push writes; SP is four bits wide, so its increment wraps. -/
theorem callPushesAdvancedPc : Obligations.CallPushesAdvancedPc := by
  unfold Obligations.CallPushesAdvancedPc
  intro nnn s
  refine ⟨s.pushPc.setPc (zextAddr nnn), rfl, ?_, fun p hp => ?_, BitVec.toNat_add s.sp 1#4, toNat_zextAddr nnn, rfl⟩
  · rw [State.stackAt_setPc, State.stackAt_pushPc, if_pos rfl]
  · rw [State.stackAt_setPc, State.stackAt_pushPc, if_neg hp]

/-- SP steps down mod 16, from 0 to 15 (R142). -/
theorem toNat_sub_one_nibble (p : Nibble) : ((p - 1#4).toNat : Int) = ((p.toNat : Int) - 1) % 16 := by
  rw [BitVec.toNat_sub, BitVec.toNat_ofNat]
  omega

/-- Settles O27: the pop writes SP and then `pc`, from the entry at the new SP. -/
theorem retPopsIntoPc : Obligations.RetPopsIntoPc := by
  unfold Obligations.RetPopsIntoPc
  exact fun s => ⟨s.popPc, rfl, toNat_sub_one_nibble s.sp, rfl, rfl⟩

/-- Settles O28: the pop reads STACK and SP only, and the SP it comes to is the SP the push wrote at. -/
theorem retUndoesCall : Obligations.RetUndoesCall := by
  unfold Obligations.RetUndoesCall
  intro nnn s u
  have hsp : s.sp + 1#4 - 1#4 = s.sp := BitVec.add_sub_cancel s.sp 1#4
  refine ⟨s.pushPc.setPc (zextAddr nnn), rfl, _, rfl, ?_, hsp⟩
  calc s.pushPc.stackAt (s.sp + 1#4 - 1#4) = s.pushPc.stackAt s.sp := by rw [hsp]
    _ = s.pc := by rw [State.stackAt_pushPc, if_pos rfl]

/-! ### Skips (R143 to R149) -/

/-- A skip on `p` (R147). -/
theorem State.skipIf_of_iff (s : State) {c : Bool} {p : Prop} [Decidable p] (h : c = true ↔ p) :
    s.skipIf c = { s with pc := if p then s.pc + 2#16 else s.pc } := by
  rw [State.skipIf_eq, if_congr h rfl rfl]
  rfl

/-- A skip on the failure of `p` (R147). -/
theorem State.skipIf_of_iff_not (s : State) {c : Bool} {p : Prop} [Decidable p] (h : c = true ↔ ¬p) :
    s.skipIf c = { s with pc := if p then s.pc else s.pc + 2#16 } := by
  rw [s.skipIf_of_iff h, ite_not]

/-- Settles O29: two bytes are equal exactly when their values are. -/
theorem compareSkips : Obligations.CompareSkips := by
  unfold Obligations.CompareSkips
  intro x y kk s
  have heq (a b : Byte) : (a == b) = true ↔ a.toNat = b.toNat := beq_iff_eq.trans BitVec.toNat_inj.symm
  have hne (a b : Byte) : (a != b) = true ↔ ¬a.toNat = b.toNat := bne_iff_ne.trans BitVec.toNat_inj.not.symm
  exact ⟨congrArg _ (s.skipIf_of_iff (heq (s.reg x) kk)), congrArg _ (s.skipIf_of_iff_not (hne (s.reg x) kk)),
    congrArg _ (s.skipIf_of_iff (heq (s.reg x) (s.reg y))),
    congrArg _ (s.skipIf_of_iff_not (hne (s.reg x) (s.reg y)))⟩

/-- Settles O30: the handlers sample the key `V[x] mod 16` (`State.keyDown_keyIndex`). -/
theorem keySkips : Obligations.KeySkips := by
  unfold Obligations.KeySkips
  intro x s
  have hdown : s.keyDown (keyIndex (s.reg x)) = true ↔ s.key.getLsbD ((s.reg x).toNat % 16) = true := by
    rw [State.keyDown_keyIndex]
  have hup : (!s.keyDown (keyIndex (s.reg x))) = true ↔ ¬s.key.getLsbD ((s.reg x).toNat % 16) = true := by
    rw [← hdown, Bool.not_eq_true', Bool.not_eq_true]
  exact ⟨congrArg _ (s.skipIf_of_iff hdown), congrArg _ (s.skipIf_of_iff_not hup)⟩

end Sys2Proof.Machine
end

section
/-! PROOF. The family 42_arithmetic.md: what a write of one register and a flagged write change, the values of the
ALU's results and flags as numbers, and from them the eleven instructions. -/

namespace Sys2Proof.Machine

/-! ### The effect of the two register writes -/

theorem State.setReg_regEffect (s : State) (x : Nibble) (b : Byte) : RegEffect s (s.setReg x b) x b.toNat :=
  ⟨congrArg BitVec.toNat (s.reg_setReg_same x b), fun _ hr => s.reg_setReg_of_ne b hr, rfl⟩

/-- What the written byte's bits are, the register's bits are afterwards. -/
theorem State.setReg_bitwise (s : State) (x : Nibble) {b : Byte} {f : Nat → Bool} (hb : ∀ j < 8, b.getLsbD j = f j) :
    RegEffect s (s.setReg x b) x ((s.setReg x b).reg x).toNat ∧
      ∀ j < 8, ((s.setReg x b).reg x).getLsbD j = f j := by
  rw [State.reg_setReg_same]
  exact ⟨s.setReg_regEffect x b, hb⟩

/-- VF gets the flag, then `V[x]` the result, so the result survives in VF (R172). -/
theorem State.setFlagged_flagEffect (s : State) (x : Nibble) {f : Bool} {b : Byte} {flag result : Nat}
    (hf : (flagByte f).toNat = flag) (hb : b.toNat = result) :
    FlagEffect s (s.setFlagged x f b) x flag result := by
  refine ⟨?_, fun hx => ?_, fun r hrx hrf => ?_, s.setFlagged_frame x f b⟩
  · rw [State.reg_setFlagged, if_pos rfl, hb]
  · rw [State.reg_setFlagged, if_neg hx.symm, if_pos (show 15#4 = flagReg from rfl), hf]
  · rw [State.reg_setFlagged, if_neg hrx, if_neg (show r ≠ flagReg from hrf)]

/-! ### Results and flags as numbers (R171) -/

theorem toNat_flagByte (f : Bool) : (flagByte f).toNat = f.toNat := by
  cases f <;> rfl

theorem toNat_flagByte_decide (p : Prop) [Decidable p] : (flagByte (decide p)).toNat = if p then 1 else 0 := by
  rw [toNat_flagByte, Bool.toNat, Bool.cond_decide]

/-- The model's difference, which stays in the naturals, is the difference of the integers mod 256 (R167). -/
theorem toNat_subResult_int (a b : Byte) : (subResult a b).toNat = (((a.toNat : Int) - b.toNat) % 256).toNat := by
  have ha : a.toNat < 256 := a.isLt
  have hb : b.toNat < 256 := b.isLt
  rw [toNat_subResult]
  omega

theorem toNat_shrResult (a : Byte) : (shrResult a).toNat = a.toNat / 2 :=
  Nat.mod_eq_of_lt ((Nat.div_le_self _ _).trans_lt a.isLt)

theorem toNat_shlResult (a : Byte) : (shlResult a).toNat = a.toNat * 2 % 256 :=
  Nat.mod_mod _ 256

/-- A right shift moves out bit 0, the parity (R168). -/
theorem toNat_flagByte_shrFlag (a : Byte) : (flagByte (shrFlag a)).toNat = a.toNat % 2 := by
  rw [toNat_flagByte, shrFlag, BitVec.getLsbD, Nat.toNat_testBit, pow_zero, Nat.div_one]

/-- A left shift moves out bit 7, whose weight is 128 (R170). -/
theorem toNat_flagByte_shlFlag (a : Byte) : (flagByte (shlFlag a)).toNat = a.toNat / 128 := by
  have ha : a.toNat < 256 := a.isLt
  rw [toNat_flagByte, shlFlag, BitVec.getLsbD, Nat.toNat_testBit]
  omega

/-! ### The instructions (R160 to R170) -/

/-- Settles O31: class 6 decodes to LD Vx, kk, whose handler is one write of `V[x]`. -/
theorem ldImmLoads : Obligations.LdImmLoads := by
  unfold Obligations.LdImmLoads
  exact fun x kk s => ⟨decodeWord_encode (.ldImm x kk), s.setReg x kk, rfl, s.setReg_regEffect x kk⟩

/-- Settles O32: one write of `V[x]`, with the sum mod 256. -/
theorem addImmWraps : Obligations.AddImmWraps := by
  unfold Obligations.AddImmWraps
  intro x kk s
  refine ⟨s.setReg x (addResult (s.reg x) kk), rfl, ?_⟩
  rw [← toNat_addResult]
  exact s.setReg_regEffect x _

/-- Settles O33: each handler is one write of `V[x]`; the operations on bytes act bit by bit. -/
theorem copyAndBitwise : Obligations.CopyAndBitwise := by
  unfold Obligations.CopyAndBitwise
  exact fun x y s => ⟨⟨_, rfl, s.setReg_regEffect x (s.reg y)⟩,
    ⟨_, rfl, s.setReg_bitwise x fun _ _ => BitVec.getLsbD_or⟩,
    ⟨_, rfl, s.setReg_bitwise x fun _ _ => BitVec.getLsbD_and⟩,
    ⟨_, rfl, s.setReg_bitwise x fun _ _ => BitVec.getLsbD_xor⟩⟩

/-- Settles O34: a flagged write of the carry and of the sum mod 256. -/
theorem addRegCarries : Obligations.AddRegCarries := by
  unfold Obligations.AddRegCarries
  exact fun x y s => ⟨_, rfl, s.setFlagged_flagEffect x (toNat_flagByte_decide _) (toNat_addResult _ _)⟩

/-- Settles O35: one argument for both orders of the operands, a flagged write of `greaterFlag` and of the
difference. -/
theorem subtractionsFlagStrictly : Obligations.SubtractionsFlagStrictly := by
  unfold Obligations.SubtractionsFlagStrictly
  intro x y s
  have hsub (a b : Byte) : FlagEffect s (s.setFlagged x (greaterFlag a b) (subResult a b)) x
      (if a.toNat > b.toNat then 1 else 0) (((a.toNat : Int) - b.toNat) % 256).toNat :=
    s.setFlagged_flagEffect x (toNat_flagByte_decide _) (toNat_subResult_int a b)
  exact ⟨⟨_, rfl, hsub (s.reg x) (s.reg y)⟩, ⟨_, rfl, hsub (s.reg y) (s.reg x)⟩⟩

/-- Settles O36: a flagged write of the bit moved out and of the shifted byte; the field `y` is not read. -/
theorem shiftsMoveOneBit : Obligations.ShiftsMoveOneBit := by
  unfold Obligations.ShiftsMoveOneBit
  exact fun x _ s =>
    ⟨⟨_, rfl, s.setFlagged_flagEffect x (toNat_flagByte_shrFlag _) (toNat_shrResult _)⟩,
      ⟨_, rfl, s.setFlagged_flagEffect x (toNat_flagByte_shlFlag _) (toNat_shlResult _)⟩⟩

end Sys2Proof.Machine
end

section
/-! PROOF. The family 43_index_memory.md: the cells and the digits of LD B, the two block transfers, and the three
writers of `I`. -/

namespace Sys2Proof.Machine

/-! ### LD B (R193) -/

/-- Different offsets below 4096 from `I` address different cells (R62, R78). -/
theorem State.cellOf_ea_ne (s : State) {j k : Nat} (hj : j < Config.memSize) (hk : k < Config.memSize) (h : j ≠ k) :
    cellOf (s.ea j) ≠ cellOf (s.ea k) :=
  fun e => h (cellOf_add_inj hj hk e)

theorem State.read_memWrite_same (s : State) (a : Nat) (b : Byte) : (s.memWrite a b).mem.read (cellOf a) = b := by
  rw [State.read_memWrite, if_pos rfl]

theorem toNat_hundreds (b : Byte) : (hundreds b).toNat = b.toNat / 100 :=
  Nat.mod_eq_of_lt ((Nat.div_le_self _ _).trans_lt b.isLt)

theorem toNat_tens (b : Byte) : (tens b).toNat = b.toNat / 10 % 10 :=
  Nat.mod_eq_of_lt ((Nat.mod_lt _ (by decide)).trans (by decide))

theorem toNat_ones (b : Byte) : (ones b).toNat = b.toNat % 10 :=
  Nat.mod_eq_of_lt ((Nat.mod_lt _ (by decide)).trans (by decide))

/-- Settles O39: the three cells differ, so no digit overwrites an earlier one. -/
theorem ldBStoresDigits : Obligations.LdBStoresDigits := by
  unfold Obligations.LdBStoresDigits
  intro x s
  have h01 : cellOf (s.ea 0) ≠ cellOf (s.ea 1) := s.cellOf_ea_ne (by decide) (by decide) (by decide)
  have h02 : cellOf (s.ea 0) ≠ cellOf (s.ea 2) := s.cellOf_ea_ne (by decide) (by decide) (by decide)
  have h12 : cellOf (s.ea 1) ≠ cellOf (s.ea 2) := s.cellOf_ea_ne (by decide) (by decide) (by decide)
  refine ⟨_, exec_eq_next _ s, afterExec_frame (.ldBVx x) s, ?_, ?_, ?_, fun q hq => ?_⟩
  · rw [afterExec_ldBVx, State.read_memWrite_of_ne _ _ h02, State.read_memWrite_of_ne _ _ h01,
      State.read_memWrite_same, toNat_hundreds]
  · rw [afterExec_ldBVx, State.read_memWrite_of_ne _ _ h12, State.read_memWrite_same, toNat_tens]
  · rw [afterExec_ldBVx, State.read_memWrite_same, toNat_ones]
  · exact (afterExec_ldBVx_read x s q).resolve_right fun ⟨k, hk, hqk⟩ => hq k hk hqk

/-! ### Block transfers (R194 to R196) -/

/-- Settles O40: after the store the cell of `I + k` holds `V[k]`, and the cells not addressed keep their bytes. -/
theorem blockStoreWritesRegisters : Obligations.BlockStoreWritesRegisters := by
  unfold Obligations.BlockStoreWritesRegisters
  intro x s
  refine ⟨_, exec_eq_next _ s, afterExec_frame (.ldIndVx x) s, fun r hr => ?_, fun q hq => ?_⟩
  · have hread := afterExec_ldIndVx_memRead x s hr
    rwa [BitVec.ofNat_toNat, BitVec.setWidth_eq] at hread
  · exact (afterExec_ldIndVx_read x s q).resolve_right fun ⟨k, hk, hqk⟩ => hq k hk hqk

/-- After LD Vx,[I] the registers up to `x` hold the bytes from `I` onward (R195). -/
theorem afterExec_ldVxInd_reg (x : Nibble) (s : State) (r : Nibble) :
    (afterExec (.ldVxInd x) s).reg r = if r.toNat ≤ x.toNat then s.memRead (s.ea r.toNat) else s.reg r := by
  simp only [← Nat.lt_succ_iff]
  exact s.loadBlock_reg (x.toNat + 1) x.isLt r

/-- Settles O41: a load writes registers only, so each byte is the one memory held before the first load. -/
theorem blockLoadReadsRegisters : Obligations.BlockLoadReadsRegisters := by
  unfold Obligations.BlockLoadReadsRegisters
  exact fun x s => ⟨_, exec_eq_next _ s, afterExec_frame (.ldVxInd x) s, afterExec_ldVxInd_reg x s⟩

/-! ### The writers of `I` (R190 to R192) -/

/-- ADD I keeps all 16 bits of the sum (R191, decision D13). -/
theorem toNat_add_zextByte (a : Word) (b : Byte) : (a + zextByte b).toNat = (a.toNat + b.toNat) % 65536 := by
  rw [BitVec.toNat_add, zextByte, BitVec.toNat_setWidth_of_le (by decide)]

/-- The glyph address of any byte fits in 16 bits, so it never wraps (R192, decision D15). -/
theorem toNat_glyphAddress (b : Byte) : (glyphAddress b).toNat = 0x50 + 5 * b.toNat := by
  have hb : b.toNat < 256 := b.isLt
  rw [glyphAddress, BitVec.toNat_ofNat, Config.glyphBase]
  omega

/-- Settles O37: each handler is one write of `I`, with the value as a number from the lemma on its operand. -/
theorem indexLoads : Obligations.IndexLoads := by
  unfold Obligations.IndexLoads
  exact fun nnn x s => ⟨⟨s.setI (zextAddr nnn), rfl, toNat_zextAddr nnn, rfl⟩,
    ⟨s.setI (s.i + zextByte (s.reg x)), rfl, toNat_add_zextByte s.i (s.reg x), rfl⟩,
    ⟨s.setI (glyphAddress (s.reg x)), rfl, toNat_glyphAddress (s.reg x), rfl⟩⟩

end Sys2Proof.Machine
end

section
/-! PROOF. The family 44_random.md: the byte a draw delivers, and RND as a draw and one write of a register. -/

namespace Sys2Proof.Machine

/-- With nothing injected the byte is the free value of this draw (decision D21). -/
theorem State.nextRandom_of_nil {s : State} (h : s.rndIn = []) : s.nextRandom = Config.randomByte s.draws := by
  rw [State.nextRandom, h, List.headD_nil]

/-- The oldest injected byte is delivered first. -/
theorem State.nextRandom_of_cons {s : State} {c : Byte} {cs : List Byte} (h : s.rndIn = c :: cs) :
    s.nextRandom = c := by
  rw [State.nextRandom, h, List.headD_cons]

/-- Settles O42: the handler is one draw and then one write of `V[x]`, so the other registers are those before the
draw. -/
theorem rndMasksOneDraw : Obligations.RndMasksOneDraw := by
  unfold Obligations.RndMasksOneDraw
  intro x kk s
  refine ⟨s.drawn.setReg x (s.nextRandom &&& kk), s.nextRandom, rfl, ?_, fun r hr => ?_,
    State.nextRandom_of_nil, fun _ _ => State.nextRandom_of_cons, rfl⟩
  · exact s.drawn.reg_setReg_same x _
  · rw [State.reg_setReg_of_ne _ _ hr, State.reg_drawn]

end Sys2Proof.Machine
end

section
/-! PROOF. The family 45_timers.md: LD Vx,DT as one write of a register, LD DT,Vx and LD ST,Vx as one write of a
timer. -/

namespace Sys2Proof.Machine

/-- Settles O43: each handler is one write, of `V[x]` with DT or of a timer with `V[x]`, and a write of one field
leaves the others. -/
theorem timerMoves : Obligations.TimerMoves := by
  unfold Obligations.TimerMoves
  intro x s
  refine ⟨⟨s.setReg x s.dt, rfl, ?_⟩, ⟨s.setDt (s.reg x), rfl, ?_, ?_⟩, ⟨s.setSt (s.reg x), rfl, ?_, ?_⟩⟩
  · exact s.setReg_regEffect x s.dt
  · exact s.setDt_dt (s.reg x)
  · exact afterExec_frame (.ldDTVx x) s
  · exact s.setSt_st (s.reg x)
  · exact afterExec_frame (.ldSTVx x) s

end Sys2Proof.Machine
end

section
/-! PROOF. The family 46_input.md: the two outcomes of the key wait, a write of `V[x]` with a key pressed and the
rewind of `pc` without. -/

namespace Sys2Proof.Machine

/-- The number of a key fits in a byte (R225). -/
theorem toNat_ofNat_key {k : Nat} (hk : k < 16) : (BitVec.ofNat 8 k).toNat = k :=
  Nat.mod_eq_of_lt (hk.trans (by decide))

/-- The handler's outcome where `k` is the least pressed key (R225). -/
theorem exec_ldVxK_of_some (x : Nibble) {s : State} {k : Nat} (h : lowestKey s.key = some k) :
    exec (.ldVxK x) s = .next (s.setReg x (BitVec.ofNat 8 k)) := by
  rw [exec_eq_next, afterExec_ldVxK, h, Option.elim_some]

/-- With no key pressed the handler takes back the advance of the fetch, and nothing else (R225 a, R226). -/
theorem afterExec_ldVxK_of_no_key (x : Nibble) {s : State} (h : s.key = 0#16) :
    afterExec (.ldVxK x) s.fetch = { s with ir := s.wordAt s.pc } := by
  have hnone : lowestKey s.fetch.key = none := (lowestKey_eq_none_iff s.key).mpr h
  have hpc : s.fetch.pc - 2#16 = s.pc := BitVec.add_sub_cancel s.pc 2#16
  rw [afterExec_ldVxK, hnone, Option.elim_none, hpc]
  rfl

/-- Settles O45: the pressed key with no lower key pressed is the one the handler finds, and it writes that number
to `V[x]`. -/
theorem keyWaitCapturesLowestKey : Obligations.KeyWaitCapturesLowestKey := by
  unfold Obligations.KeyWaitCapturesLowestKey
  intro x s k hk hdown hlower
  have hleast : lowestKey s.key = some k := (lowestKey_eq_some s.key k).mpr ⟨hk, hdown, hlower⟩
  refine ⟨s.setReg x (BitVec.ofNat 8 k), exec_ldVxK_of_some x hleast, ?_⟩
  have heffect := s.setReg_regEffect x (BitVec.ofNat 8 k)
  rwa [toNat_ofNat_key hk] at heffect

/-- Settles O46: after the rewind only `IR` differs from the state before the fetch, and the end of the cycle adds
the countdown and the status. -/
theorem keyWaitRewinds : Obligations.KeyWaitRewinds := by
  unfold Obligations.KeyWaitRewinds
  intro x s hn hkey
  rw [step_of_some hn, afterExec_ldVxK_of_no_key x hkey]
  rfl

end Sys2Proof.Machine
end

section
/-! PROOF. The family 47_display.md: CLS, and DRW as the toggling of the destinations of the set sprite bits, once and
twice. -/

namespace Sys2Proof.Machine

/-! ### CLS (R230) -/

/-- Settles O47: the handler writes the framebuffer alone, with every bit 0. -/
theorem clsClearsFramebuffer : Obligations.ClsClearsFramebuffer := by
  unfold Obligations.ClsClearsFramebuffer
  exact ⟨decodeWord_encode .cls, fun s => ⟨s.setFb 0#2048, rfl, fun _ _ => BitVec.getLsbD_zero, rfl⟩⟩

/-! ### The destinations of the set sprite bits (R232, R234) -/

theorem State.mem_spriteDests_iff_spriteSet (s : State) (sx sy : Byte) (n j : Nat) :
    j ∈ s.spriteDests sx sy n ↔ ∃ row col, s.spriteSet n row col ∧ destPixel sx sy row col = j := by
  simp only [State.mem_spriteDests, State.spriteSet, spriteBit, exists_and_left, and_assoc]

/-! ### The blitter and the collision detector (R231) -/

/-- The blitter complements the destinations and keeps every other pixel. -/
theorem State.getLsbD_blit_fb (s : State) (sx sy : Byte) (n : Nibble) (j : Nat) :
    (s.blit sx sy n.toNat).fb.getLsbD j = (s.pixel j ^^ decide (j ∈ s.spriteDests sx sy n.toNat)) := by
  have hlt : ∀ k ∈ s.spriteDests sx sy n.toNat, k < 2048 := by
    intro k hk
    obtain ⟨row, col, -, rfl⟩ := (s.mem_spriteDests_iff_spriteSet sx sy n.toNat k).mp hk
    exact destPixel_lt sx sy row col
  rw [State.blit_eq_toggles, foldl_toggle_fb _ _ (s.nodup_spriteDests sx sy n.toNat (by omega)) hlt, State.pixel]

/-- A collision happens exactly where a set bit's destination is 1 before the draw. -/
theorem State.blit_hit_iff (s : State) (sx sy : Byte) (n : Nibble) :
    (s.blit sx sy n.toNat).hit = true ↔
      ∃ row col, s.spriteSet n.toNat row col ∧ s.pixel (destPixel sx sy row col) = true := by
  rw [State.blit_eq_toggles, foldl_toggle_hit _ _ (s.nodup_spriteDests sx sy n.toNat (by omega)), Bool.false_or,
    List.any_eq_true]
  simp only [State.mem_spriteDests_iff_spriteSet]
  constructor
  · rintro ⟨_, ⟨row, col, hset, rfl⟩, hpix⟩
    exact ⟨row, col, hset, hpix⟩
  · rintro ⟨row, col, hset, hpix⟩
    exact ⟨_, ⟨row, col, hset, rfl⟩, hpix⟩

section
variable (x y n : Nibble) (s : State)

theorem afterExec_drw_pixel (j : Nat) :
    (afterExec (.drw x y n) s).pixel j =
      (s.pixel j ^^ decide (j ∈ s.spriteDests (s.reg x) (s.reg y) n.toNat)) :=
  s.getLsbD_blit_fb (s.reg x) (s.reg y) n j

/-- The destination of a set bit is complemented. -/
theorem afterExec_drw_pixel_of_spriteSet {row col : Nat} (h : s.spriteSet n.toNat row col) :
    (afterExec (.drw x y n) s).pixel (destPixel (s.reg x) (s.reg y) row col) =
      !s.pixel (destPixel (s.reg x) (s.reg y) row col) := by
  have hmem := (s.mem_spriteDests_iff_spriteSet (s.reg x) (s.reg y) n.toNat _).mpr ⟨row, col, h, rfl⟩
  rw [afterExec_drw_pixel, decide_eq_true hmem, Bool.xor_true]

theorem afterExec_drw_VF :
    (afterExec (.drw x y n) s).reg 15#4 = flagByte (s.blit (s.reg x) (s.reg y) n.toNat).hit :=
  State.reg_setReg_same _ flagReg _

end

/-- Settles O48: the destinations are the pixels toggled, each once, and VF is the flag of a collision. -/
theorem drawComplementsDestinations : Obligations.DrawComplementsDestinations := by
  unfold Obligations.DrawComplementsDestinations
  intro x y n s
  refine ⟨_, exec_eq_next _ s, fun row col h => afterExec_drw_pixel_of_spriteSet x y n s h, fun j hj => ?_, ?_,
    fun r hr => State.reg_setReg_of_ne _ _ hr, afterExec_frame (.drw x y n) s⟩
  · have hmem : j ∉ s.spriteDests (s.reg x) (s.reg y) n.toNat := by
      rw [State.mem_spriteDests_iff_spriteSet]
      rintro ⟨row, col, hset, rfl⟩
      exact hj row col hset rfl
    rw [afterExec_drw_pixel, decide_eq_false hmem, Bool.xor_false]
  · have hhit := s.blit_hit_iff (s.reg x) (s.reg y) n
    rw [afterExec_drw_VF]
    cases hcase : (s.blit (s.reg x) (s.reg y) n.toNat).hit with
    | true => exact .inl ⟨rfl, hhit.mp hcase⟩
    | false =>
      refine .inr ⟨rfl, fun row col hset => Bool.eq_false_iff.mpr fun hpix => ?_⟩
      exact Bool.false_ne_true (hcase.symm.trans (hhit.mpr ⟨row, col, hset, hpix⟩))

/-! ### A second draw (R235) -/

theorem flagByte_eq_one (f : Bool) : flagByte f = 1#8 ↔ f = true := by
  cases f <;> decide

section
variable (x y n : Nibble) (s : State)

/-- The state after a draw, with the registers as before it (R235). -/
def State.afterDrwKeepingRegs : State := { afterExec (.drw x y n) s with v := s.v }

/-- A pixel toggled twice is the pixel before. -/
theorem afterExec_drw_afterDrwKeepingRegs_fb : (afterExec (.drw x y n) (s.afterDrwKeepingRegs x y n)).fb = s.fb := by
  refine BitVec.eq_of_getLsbD_eq fun j _ => ?_
  have hfirst : (s.afterDrwKeepingRegs x y n).pixel j =
      (s.pixel j ^^ decide (j ∈ s.spriteDests (s.reg x) (s.reg y) n.toNat)) := afterExec_drw_pixel x y n s j
  calc (afterExec (.drw x y n) (s.afterDrwKeepingRegs x y n)).pixel j
      = ((s.afterDrwKeepingRegs x y n).pixel j ^^ decide (j ∈ s.spriteDests (s.reg x) (s.reg y) n.toNat)) :=
        afterExec_drw_pixel x y n (s.afterDrwKeepingRegs x y n) j
    _ = s.pixel j := by rw [hfirst, Bool.xor_assoc, Bool.xor_self, Bool.xor_false]

/-- The second draw finds 1 where the first found 0. -/
theorem afterDrwKeepingRegs_pixel_of_spriteSet {row col : Nat} (h : s.spriteSet n.toNat row col) :
    (s.afterDrwKeepingRegs x y n).pixel (destPixel (s.reg x) (s.reg y) row col) =
      !s.pixel (destPixel (s.reg x) (s.reg y) row col) :=
  afterExec_drw_pixel_of_spriteSet x y n s h

end

/-- Settles O49: with its registers back, the second draw has the set bits and the destinations of the first. -/
theorem drawTwiceRestores : Obligations.DrawTwiceRestores := by
  unfold Obligations.DrawTwiceRestores
  intro x y n s
  refine ⟨_, _, exec_eq_next _ s, exec_eq_next _ (s.afterDrwKeepingRegs x y n),
    afterExec_drw_afterDrwKeepingRegs_fb x y n s, ?_⟩
  rw [afterExec_drw_VF, flagByte_eq_one, State.blit_hit_iff]
  refine exists_congr fun row => exists_congr fun col => and_congr_right fun hset => ?_
  have hflip := afterDrwKeepingRegs_pixel_of_spriteSet x y n s hset
  exact (congrArg (· = true) hflip).to_iff.trans (Bool.not_eq_true' _).to_iff

end Sys2Proof.Machine
end

section
/-! PROOF. The family 60_exceptions.md: the loader below and above its bound, the key write, the read accessors, and
the claims' view of a cycle. -/

namespace Sys2Proof.Machine

/-! ### The loader (R263, R264) -/

theorem loadProgram_of_le {bytes : List Byte} (h : bytes.length ≤ 3584) (s : State) :
    loadProgram bytes s = .next (s.writeBytes 0x200 bytes) :=
  if_pos (decide_eq_true h)

theorem loadProgram_of_gt {bytes : List Byte} (h : 3584 < bytes.length) (s : State) :
    loadProgram bytes s = .fault (.loadCapacity bytes.length) :=
  if_neg fun hwf => Nat.not_le_of_lt h (of_decide_eq_true hwf)

section
variable (s : State) {a : Nat} {bs : List Byte} (h : a + bs.length ≤ Config.memSize)
include h

/-- Byte `k` of a copy is in cell `a + k`. -/
theorem State.read_writeBytes_inside {k : Nat} (hk : k < bs.length) :
    (s.writeBytes a bs).mem.read (a + k) = bs.getD k 0#8 := by
  rw [State.writeBytes_read s a bs h, if_pos (Nat.le_add_right a k), Nat.add_sub_cancel_left,
    List.getElem?_eq_getElem hk, Option.getD_some, List.getD_eq_getElem bs 0#8 hk]

/-- A cell before or after the copy keeps its byte. -/
theorem State.read_writeBytes_outside {q : Nat} (hq : q < a ∨ a + bs.length ≤ q) :
    (s.writeBytes a bs).mem.read q = s.mem.read q := by
  rw [State.writeBytes_read s a bs h]
  obtain hbefore | hafter := hq
  · rw [if_neg (Nat.not_le_of_lt hbefore)]
  · rw [List.getElem?_eq_none (by omega), Option.getD_none, ite_self]

end

/-- An image the loader admits ends inside memory. -/
theorem entry_add_length_le {bytes : List Byte} (h : bytes.length ≤ 3584) :
    0x200 + bytes.length ≤ Config.memSize := by
  rw [Config.memSize]
  omega

/-- Settles O53: the loader is one copy of the bytes, which stays inside memory. -/
theorem loadInstallsProgram : Obligations.LoadInstallsProgram := by
  unfold Obligations.LoadInstallsProgram
  intro bytes s h
  have hend := entry_add_length_le h
  exact ⟨_, loadProgram_of_le h s, fun _ hk => s.read_writeBytes_inside hend hk,
    fun _ hq => s.read_writeBytes_outside hend hq, s.writeBytes_frame 0x200 bytes⟩

/-- Settles O54: the bound is checked before a byte is written. -/
theorem loadRejectsOversize : Obligations.LoadRejectsOversize := by
  unfold Obligations.LoadRejectsOversize
  exact fun _ s h => loadProgram_of_gt h s

/-! ### The key write (R266) -/

theorem State.keyDown_setKey (k j : Nibble) (pressed : Bool) (s : State) :
    (setKey k pressed s).keyDown j = if j = k then pressed else s.keyDown j := by
  have hbit : (BitVec.twoPow 16 k.toNat).getLsbD j.toNat = decide (j = k) := by
    simp only [BitVec.getLsbD_twoPow, k.isLt, decide_true, Bool.true_and, ← BitVec.toNat_inj, eq_comm]
  have hnot : (~~~BitVec.twoPow 16 k.toNat).getLsbD j.toNat = !decide (j = k) := by
    rw [BitVec.getLsbD_not, decide_eq_true j.isLt, Bool.true_and, hbit]
  cases pressed with
  | true =>
    calc (setKey k true s).keyDown j = (s.keyDown j || decide (j = k)) := hbit ▸ BitVec.getLsbD_or
      _ = if j = k then true else s.keyDown j := by by_cases h : j = k <;> simp [h]
  | false =>
    calc (setKey k false s).keyDown j = (s.keyDown j && !decide (j = k)) := hnot ▸ BitVec.getLsbD_and
      _ = if j = k then false else s.keyDown j := by by_cases h : j = k <;> simp [h]

/-- Settles O56: bit by bit, what the write of the key mask changes. -/
theorem setKeyWritesOneKey : Obligations.SetKeyWritesOneKey := by
  unfold Obligations.SetKeyWritesOneKey
  intro k pressed s
  refine ⟨?_, fun j hj => ?_, rfl⟩
  · rw [State.keyDown_setKey, if_pos rfl]
  · rw [State.keyDown_setKey, if_neg hj]

/-! ### The read accessors (R267, R269) -/

/-- Settles O57: the snapshot's elements are the framebuffer's bits in order. -/
theorem hostReadsState : Obligations.HostReadsState := by
  unfold Obligations.HostReadsState
  exact fun s x y hx hy => ⟨Vector.getElem_ofFn (by omega), fun _ => rfl, rfl, rfl⟩

/-! ### The claims' view of a cycle (R250) -/

/-- A recognized word's cycle ends with status Ok, so a claim sees the cycle itself. -/
theorem strictStep_of_some {s : State} {i : Instr} (h : s.nextInstr? = some i) : strictStep s = step s :=
  (strictCycle_of_ok (step_of_some h) rfl).trans (step_of_some h).symm

/-- The status of an unrecognized word's cycle becomes the fault. -/
theorem strictStep_of_none {s : State} (h : s.nextInstr? = none) :
    strictStep s = .fault (.unrecognizedInstruction (s.wordAt s.pc) s.pc) := by
  have haddr : s.fetch.pc - 2#16 = s.pc := BitVec.add_sub_cancel s.pc 2#16
  rw [strictStep, strictCycle_of_unrecognized (step_of_none h) rfl, haddr, State.fetch_ir]

/-- Settles O59: the two ways a cycle goes. -/
theorem strictStepFaultsExactlyOnUnrecognized : Obligations.StrictStepFaultsExactlyOnUnrecognized := by
  unfold Obligations.StrictStepFaultsExactlyOnUnrecognized
  intro s
  cases h : s.nextInstr? with
  | some i => exact strictStep_of_some h
  | none => exact strictStep_of_none h

end Sys2Proof.Machine
end

section
/-! PROOF. The family 70_reset_and_hazards.md: reset on any prior state, the first fetch of a launched run, and the
self-jump. -/

namespace Sys2Proof.Machine

/-! ### Reset (R290) -/

theorem resetContents_glyph (g m : Nat → Byte) {k : Nat} (hk : k < 80) : resetContents g m (0x50 + k) = g k := by
  have hin : Config.glyphBase ≤ 0x50 + k ∧ 0x50 + k < Config.glyphBase + Config.glyphBytes := by
    simp only [Config.glyphBase, Config.glyphBytes]
    omega
  rw [resetContents, if_pos hin, Config.glyphBase, Nat.add_sub_cancel_left]

/-- Settles O50: the fields as `initMachine` sets them, and GLYPH_TABLE in the cells of the glyph table. -/
theorem resetEstablishes : Obligations.ResetEstablishes := by
  unfold Obligations.ResetEstablishes
  intro g m ir s
  refine ⟨_, rfl, initMachine_pc g m ir s, fun k hk => ?_, fun r => ?_, fun p => ?_, initMachine_dt g m ir s,
    initMachine_st g m ir s, fun k => ?_, fun j _ => ?_⟩
  · have hcell : 0x50 + k < Config.memSize := by
      rw [Config.memSize]
      omega
    rw [memRead_initMachine, cellOf_of_lt hcell, resetContents_glyph g m hk]
  · simp only [State.reg, initMachine_v, Vector.getElem_replicate]
  · simp only [State.stackAt, initMachine_stack, Vector.getElem_replicate]
  · rw [State.keyDown, initMachine_key, BitVec.getLsbD_zero]
  · rw [State.pixel, initMachine_fb, BitVec.getLsbD_zero]

/-! ### The first fetch of a launched run (R291, R293, R295) -/

/-- An image copied to 0x200 has its first two bytes as the word there, byte 0 high (R63). -/
theorem State.wordAt_writeBytes (s : State) {b c : Byte} {bs : List Byte} (h : (b :: c :: bs).length ≤ 3584) :
    (s.writeBytes 0x200 (b :: c :: bs)).wordAt 0x200#16 = wordOfBytes b c := by
  have hend := entry_add_length_le h
  exact congrArg₂ wordOfBytes (s.read_writeBytes_inside hend (k := 0) (Nat.succ_pos _))
    (s.read_writeBytes_inside hend (k := 1) (Nat.succ_lt_succ (Nat.succ_pos _)))

/-- Settles O55: the loader leaves the reset `pc`, and the first cycle fetches the word the loader put there. -/
theorem launchFetchesImageStart : Obligations.LaunchFetchesImageStart := by
  unfold Obligations.LaunchFetchesImageStart
  intro g m ir b c bs s h
  have hlen : (b :: c :: bs).length ≤ 3584 := Nat.add_le_add_right h 2
  obtain ⟨u, hstep, hir⟩ := step_leaves_wordAt_pc ((initMachine g m ir s).writeBytes 0x200 (b :: c :: bs))
  have hpc : ((initMachine g m ir s).writeBytes 0x200 (b :: c :: bs)).pc = 0x200#16 :=
    congrArg State.pc (State.writeBytes_frame _ _ _ :)
  refine ⟨_, u, loadProgram_of_le hlen _, hpc, hstep, ?_⟩
  rw [hir, hpc, State.wordAt_writeBytes _ hlen, wordOfBytes]

/-! ### The self-jump (R297) -/

/-- One cycle at a self-jump. -/
theorem State.afterCycle_of_atSelfJump {s : State} (h : s.atSelfJump) :
    s.afterCycle = { s with ir := s.wordAt s.pc, dt := countDown s.dt, st := countDown s.st, status := .ok } := by
  obtain ⟨nnn, hn, hpc⟩ := h
  have hjump : afterExec (.jp nnn) s.fetch = { s with ir := s.wordAt s.pc } := by
    calc afterExec (.jp nnn) s.fetch = { s with ir := s.wordAt s.pc, pc := nnn.setWidth 16 } := rfl
      _ = { s with ir := s.wordAt s.pc } := by rw [hpc]
  rw [State.afterCycle_of_step (step_of_some hn), hjump]
  rfl

/-- The cycle keeps `pc` and memory, so the next one is at the self-jump again. -/
theorem State.atSelfJump_afterCycle {s : State} (h : s.atSelfJump) : s.afterCycle.atSelfJump := by
  rw [State.afterCycle_of_atSelfJump h]
  exact h

/-- Settles O58, by induction on the number of further cycles, from any state at a self-jump. -/
theorem selfJumpIsStable : Obligations.SelfJumpIsStable := by
  unfold Obligations.SelfJumpIsStable
  intro k
  induction k with
  | zero =>
    exact fun s h => ⟨_, State.afterCycle_of_atSelfJump h, toNat_countDown s.dt, toNat_countDown s.st, rfl⟩
  | succ k ih =>
    intro s h
    obtain ⟨t, ht, hdt, hst, hframe⟩ := ih s.afterCycle (State.atSelfJump_afterCycle h)
    rw [State.afterCycle_of_atSelfJump h] at hdt hst hframe
    refine ⟨t, ht, ?_, ?_, hframe⟩
    · rw [hdt, toNat_countDown, Nat.sub_sub, Nat.add_comm 1]
    · rw [hst, toNat_countDown, Nat.sub_sub, Nat.add_comm 1]

end Sys2Proof.Machine
end
